-- ==== Sys2Proof/Word.lean ====
section
/-! DEFINITION. The plainest values of the core: line levels, the decoder's phase and the widths of its bit fields
(spec/00_scope.md R10, spec/10_state.md R20, spec/30_encoding.md R81, R86, R88). -/

namespace Sys2Proof

/-- A line level (R10). -/
inductive Level where
  | low
  | high
deriving DecidableEq, Repr

/-- The opposite level; every transition changes the level to it (R51). -/
def Level.flip : Level → Level
  | .low => .high
  | .high => .low

/-- In every encoding HIGH is 1 and LOW is 0 (R10). -/
def Level.isHigh : Level → Bool
  | .low => false
  | .high => true

/-- The DecoderPhase (R20, R21). -/
inductive Phase where
  | unsynchronized
  | synchronized
deriving DecidableEq, Repr

/-- The one-bit encoding of the phase: 0 is `Unsynchronized`, 1 is `Synchronized` (R20). -/
def Phase.isSync : Phase → Bool
  | .unsynchronized => false
  | .synchronized => true

/-- One byte. -/
abbrev Byte := BitVec 8

/-- The 10-bit dispatch key that selects an operation (R88). -/
abbrev Key := BitVec 10

/-- The 32-bit configuration word (R86). -/
abbrev CfgWord := BitVec 32

/-- The 16-bit flag field of an event record (R80). -/
abbrev FlagWord := BitVec 16

end Sys2Proof
end

