-- ==== Sys2Proof/Config.lean ====
section
/-! DEFINITION. What an implementation of the core fixes: its parameters and its constants (spec/00_scope.md R7, R8). The
spec leaves no value free, so there is no opaque constant here. -/

namespace Sys2Proof

/-- The implementation parameters of R7 that are no field of the configuration word. A state carries them, so that every
statement holds for every choice of them. -/
structure Params where
  /-- `SAMPLE_W`: width in bits of every stored or emitted sample index, width, `bp10` and value. -/
  sampleW : Nat
  /-- `CAPTURE_START`: the sample at which the cursor stands at reset. -/
  captureStart : Nat
  /-- `RATE_HINT`: accepted, and read by no rule. -/
  rateHint : Nat
  /-- `CHANNEL_ID`: read by no rule. -/
  channelId : Nat
deriving DecidableEq, Repr

/-- The defaults of R7; `CHANNEL_ID` has none there and is 0 here (DESIGN CHOICE, log entry 5). -/
def Params.default : Params :=
  { sampleW := 64, captureStart := 0, rateHint := 0, channelId := 0 }

/-- The legal parameter values: `SAMPLE_W` is at least 32 (R7), and the starting sample is one the cursor can hold. -/
abbrev Params.Legal (p : Params) : Prop :=
  32 ≤ p.sampleW ∧ p.captureStart < 2 ^ p.sampleW

/-- A tolerance band as two fractions, `lo` and `hi` (R8). -/
structure Tolerance where
  loNum : Nat
  loDen : Nat
  hiNum : Nat
  hiDen : Nat
deriving DecidableEq, Repr

end Sys2Proof
end

