-- ==== Sys2Proof/Machine/State.lean ====
section
/-! DEFINITION. The machine's state as plain data (spec/10_state.md R20, R36), with the environment it reads and writes: the
edge channel (spec/20_memory.md R51), the event sink (R58), the cancellation input (spec/40_engine.md R117) and the host's
pending turns (R67); and the reasons a step can stop. -/

namespace Sys2Proof.Machine

/-- One event record (R58, R83). `start` and `last` are inclusive; `last` is the spec's `end`. -/
structure Event where
  start : Nat
  last : Nat
  flags : FlagWord
  value : Nat
deriving DecidableEq, Repr

/-- How much of the trace the channel has supplied (R51, R54). -/
inductive Supply where
  /-- Every sample up to and including this one. -/
  | through (n : Nat)
  /-- Every sample; no further transition will ever occur (R93, `Hinf` and `Linf`). -/
  | all
deriving DecidableEq, Repr

/-- The edge channel: the core's whole address space. `l0` is the level at `CAPTURE_START`, `edges` the transitions supplied
so far in increasing order (R51). This list is the machine's memory in its canonical form (`Channel.Wf`). -/
structure Channel where
  l0 : Level
  edges : List Nat
  supply : Supply
deriving DecidableEq, Repr

/-- How many more records the sink accepts before it makes the core wait (R58, R67, R238). -/
inductive Sink where
  | always
  | room (n : Nat)
deriving DecidableEq, Repr

/-- What the host can do at a step boundary or while a step is blocked (R67). -/
inductive HostAction where
  /-- Reset: present `cfg` and position the channel at `CAPTURE_START`, where the line has level `l0` (R230, R232). -/
  | reset (cfg : CfgWord) (l0 : Level)
  /-- The channel supplies every sample through `t`, with its next transition at `t` (R51, R67). -/
  | supplyEdge (t : Nat)
  /-- The channel supplies every sample through `n`, with no further transition up to there (R54). -/
  | supplyQuiet (n : Nat)
  /-- The channel supplies every later sample, with no further transition. -/
  | supplyRest
  /-- The host drives the `cancel` input to this level (R117). That it may drive it back to 0 before the core examines it is the
  model's choice (log entry 16). -/
  | setCancel (on : Bool)
  /-- The sink accepts this many more records from now on (R67, R238). -/
  | setSink (sink : Sink)
  /-- The configuration input carries this word (R233). -/
  | presentCfg (cfg : CfgWord)
  /-- The host puts the channel's cursor at sample `n` (R234). -/
  | moveCursor (n : Nat)
  /-- The host changes the level of sample `n` (R234). -/
  | alterSample (n : Nat)
deriving DecidableEq, Repr

/-- Who takes the next turn: the core takes a step, or the host acts (log entry 8). -/
inductive Turn where
  | core
  | host (action : HostAction)
deriving DecidableEq, Repr

/-- The state. The first nine fields are the registers of R20; their `SAMPLE_W`-bit contents are numbers, and that they fit
is an invariant (R33). The other fields are the environment of one run. -/
structure State where
  /-- The DecoderPhase, 1 bit (R21). -/
  phase : Phase
  /-- The SYNC pattern position, 4 bits (R22). -/
  k : BitVec 4
  /-- The first sample of the pattern in progress, `SAMPLE_W` bits (R24). -/
  origin : Nat
  /-- The provisional bit period in samples, `SAMPLE_W` bits (R25). -/
  prov : Nat
  /-- Ten times the locked bit period, `SAMPLE_W` bits (R23). -/
  bp10 : Nat
  /-- No step taken yet since reset, 1 bit (R26). -/
  first : Bool
  /-- Cancellation has ended the run, 1 bit (R27). -/
  halted : Bool
  /-- The channel cursor, `SAMPLE_W` bits (R28). -/
  pos : Nat
  /-- The configuration latched at reset, 32 bits (R29). -/
  cfg : CfgWord
  /-- The implementation parameters (R7). -/
  params : Params
  /-- The edge channel (R51). -/
  chan : Channel
  /-- The event stream of this run, oldest record first (R58). -/
  events : List Event
  /-- The sink's readiness (R238). -/
  sink : Sink
  /-- The `cancel` input (R117). -/
  cancel : Bool
  /-- The turns that are settled already, the next one first; once it is empty every turn is the core's. -/
  turns : List Turn
deriving DecidableEq, Repr

/-- The reasons a step can fault (R212). -/
inductive Fault where
  /-- Any operation that emits or moves the cursor, and reset: a stored or emitted value does not fit in `SAMPLE_W` bits
  (R33). Safe: a wider implementation goes on. -/
  | indexOverflow
  /-- The dispatch: the key matches no row of the operation map (R91). Safe, and no state that meets the invariant has such
  a key. -/
  | unreachableKey
  /-- Any operation that reads the channel: the cursor is below `CAPTURE_START`, where there are no samples (R50, R57).
  Safe, and no state that meets the invariant has such a cursor (log entry 9). -/
  | sampleBelowStart
deriving DecidableEq, Repr

/-- The reasons a step can be refused (R212). -/
inductive Refusal where
  /-- An operation whose meaning is not written; no arm of `exec` raises it. Safe. -/
  | notModelled (mnemonic : String)
  /-- Reset: a reserved bit of the configuration word is 1 (R87). Safe. -/
  | cfgReserved
  /-- A turn of the host: the configuration input changed during the run (R233). Safe. -/
  | cfgChanged
  /-- A turn of the host: it moved the cursor or changed a supplied sample (R234). Safe. -/
  | cursorMoved
deriving DecidableEq, Repr

/-- The outcome of a step. -/
abbrev Result := Host.Outcome State Fault Refusal

/-- The machine right after reset with the configuration word 0, on a channel of which only the first sample is supplied;
the line idles HIGH (R2, R36; log entries 4 to 6). -/
def State.reset : State :=
  { phase := .unsynchronized
    k := 0#4
    origin := 0
    prov := 0
    bp10 := 0
    first := true
    halted := false
    pos := Params.default.captureStart
    cfg := 0#32
    params := Params.default
    chan := { l0 := .high, edges := [], supply := .through Params.default.captureStart }
    events := []
    sink := .always
    cancel := false
    turns := [] }

end Sys2Proof.Machine
end

