-- ==== Sys2Proof/Machine/Flags.lean ====
section
/-! DEFINITION. The event flags (spec/30_encoding.md R80 to R82) and the computations that set the error flags of a frame
(spec/43_frame_decoder.md R185, R186, R188). -/

namespace Sys2Proof.Machine

/-- `IDLE`, bit 0 (R81). -/
def flagIdle : FlagWord := 0x0001#16

/-- `BREAK`, bit 1 (R81). -/
def flagBreak : FlagWord := 0x0002#16

/-- `SYNC`, bit 2 (R81). -/
def flagSync : FlagWord := 0x0004#16

/-- `DATA`, bit 3 (R81). -/
def flagData : FlagWord := 0x0008#16

/-- `WRONG_BIT`, bit 4 (R81). -/
def flagWrongBit : FlagWord := 0x0010#16

/-- `NARROW`, bit 5 (R81). -/
def flagNarrow : FlagWord := 0x0020#16

/-- `WIDE`, bit 6 (R81). -/
def flagWide : FlagWord := 0x0040#16

/-- `FRAMING_ERROR`, bit 7 (R81). -/
def flagFramingError : FlagWord := 0x0080#16

/-- `PARITY_ERROR`, bit 8 (R81). -/
def flagParityError : FlagWord := 0x0100#16

/-- The flag sets that are ever emitted (R82). -/
def legalFlagSets : List FlagWord :=
  [0x001#16, 0x002#16, 0x004#16, 0x008#16, 0x088#16, 0x108#16, 0x188#16, 0x010#16, 0x020#16, 0x040#16]

/-- The number of 1 bits of a byte (R9). -/
def popcount (v : Byte) : Nat :=
  (List.range 8).countP fun i => v.getLsbD i

/-- `perr`: the parity bit must be HIGH exactly when the byte has an odd number of 1 bits (R185). -/
def parityError (byte : Byte) (parity : Level) : Bool :=
  parity.isHigh != decide (popcount byte % 2 = 1)

/-- `ferr`: a stop sample is LOW, or a transition lies in the second stop-bit window (R186). -/
def framingError (stop1 stop2 : Level) (crossed : Nat) : Bool :=
  decide (stop1 = .low) || decide (stop2 = .low) || decide (1 ≤ crossed)

/-- The flag set of a DATA event (R188). -/
def dataFlags (perr ferr : Bool) : FlagWord :=
  flagData ||| (if perr then flagParityError else 0#16) ||| (if ferr then flagFramingError else 0#16)

end Sys2Proof.Machine
end

