-- ==== Sys2Proof/Machine/Ops.lean ====
section
/-! DEFINITION. The shared operations: the channel's five primitives (spec/20_memory.md R52 to R56), the store check of
spec/10_state.md R33, the emission of a record (R58), blocking (spec/40_engine.md R115), and reset (spec/70_reset_and_hazards.md R230). The
core takes no exceptions and returns from none (spec/60_exceptions.md R216): an anomaly is an operation's ordinary update. -/

namespace Sys2Proof.Machine

/-- The channel has supplied sample `n` (R54). -/
def Channel.supplied (c : Channel) (n : Nat) : Bool :=
  match c.supply with
  | .through m => decide (n ≤ m)
  | .all => true

/-- The canonical form of the channel: its transitions rise strictly, lie above `CAPTURE_START` and are supplied, and so is
the first sample (R51). -/
abbrev Channel.Wf (captureStart : Nat) (c : Channel) : Prop :=
  c.edges.Pairwise (· < ·) ∧ (∀ t ∈ c.edges, captureStart < t ∧ c.supplied t = true) ∧
    c.supplied captureStart = true

/-- `Level(n)`: `L0` if the number of transitions up to `n` is even, else its opposite (R52). -/
def Channel.level (c : Channel) (n : Nat) : Level :=
  if (c.edges.countP (fun t => decide (t ≤ n))) % 2 = 0 then c.l0 else c.l0.flip

/-- `NextT(n)`: the least supplied transition above `n`, or none, where a step that needs it blocks (R53). -/
def Channel.nextT (c : Channel) (n : Nat) : Option Nat :=
  c.edges.find? (fun t => decide (n < t))

/-- `Crossed(a, b)`: the number of transitions `t` with `a < t ≤ b` (R54). It counts once sample `b` is supplied. -/
def Channel.crossed (c : Channel) (a b : Nat) : Nat :=
  c.edges.countP (fun t => decide (a < t ∧ t ≤ b))

/-- `advanceToNextTransition()` with the cursor at `p`: the new cursor, or none where it blocks (R55). -/
def Channel.advanceToNextTransition (c : Channel) (p : Nat) : Option Nat :=
  c.nextT p

/-- `advanceBy(d)` with the cursor at `p`: the new cursor and the number of transitions crossed, or none where it blocks
(R56). -/
def Channel.advanceBy (c : Channel) (p d : Nat) : Option (Nat × Nat) :=
  if c.supplied (p + d) then some (p + d, c.crossed p (p + d)) else none

/-- The value fits in `SAMPLE_W` bits (R33). -/
def State.fits (s : State) (v : Nat) : Bool :=
  decide (v < 2 ^ s.params.sampleW)

/-- The end of every operation: `first` is 0 (R26, R110). -/
def State.stepped (s : State) : State :=
  { s with first := false }

/-- The sink accepts a record now (R238). -/
def Sink.ready : Sink → Bool
  | .always => true
  | .room n => decide (0 < n)

/-- The sink after it has accepted one record. -/
def Sink.accept : Sink → Sink
  | .always => .always
  | .room n => .room (n - 1)

/-- The record is appended to the event stream (R58). -/
def State.emitted (s : State) (e : Event) : State :=
  { s with events := s.events ++ [e], sink := s.sink.accept }

/-- The record covering the samples from `start` up to, not including, `stop` (R12); none if a field does not fit in
`SAMPLE_W` bits, an end below 0 among them (R33). -/
def State.recordOf (s : State) (start stop : Nat) (flags : FlagWord) (value : Nat) : Option Event :=
  if 0 < stop ∧ s.fits start ∧ s.fits (stop - 1) ∧ s.fits value then
    some { start := start, last := stop - 1, flags := flags, value := value }
  else none

/-- An operation on the pulse at the cursor: `body` gets the end of the pulse, `T = NextT(pos)`. Where the channel has not
supplied it the step blocks and leaves no trace (R110, R115). -/
def observe (s : State) (body : Nat → Result) : Result :=
  if s.pos < s.params.captureStart then .fault .sampleBelowStart
  else
    match s.chan.nextT s.pos with
    | none => .next s
    | some T => body T

/-- An operation that emits nothing ends in `s'`; `stored` are the values it stores in `SAMPLE_W`-bit registers (R33). -/
def finish (s s' : State) (stored : List Nat) : Result :=
  if stored.all s.fits then .next s'.stepped else .fault .indexOverflow

/-- An operation that emits one record ends in `s'` with the record in the stream. A value that does not fit faults and
nothing takes effect (R33); a sink that does not accept makes the core wait in this step (R238). -/
def finishEmit (s s' : State) (stored : List Nat) (start stop : Nat) (flags : FlagWord) (value : Nat) :
    Result :=
  match s.recordOf start stop flags value with
  | none => .fault .indexOverflow
  | some e =>
    if stored.all s.fits then
      if s.sink.ready then .next (s'.emitted e).stepped else .next s
    else .fault .indexOverflow

/-- A configuration word with its reserved bits 0 (R86, R87). -/
def cfgLegal (cfg : CfgWord) : Bool :=
  cfg >>> 4 == 0#32

/-- The registers after reset and a new channel positioned at `CAPTURE_START` (R36, R230); a new run begins, with an empty
event stream (log entry 7). -/
def State.restarted (s : State) (cfg : CfgWord) (l0 : Level) : State :=
  { s with
    phase := .unsynchronized
    k := 0#4
    origin := 0
    prov := 0
    bp10 := 0
    first := true
    halted := false
    pos := s.params.captureStart
    cfg := cfg
    chan := { l0 := l0, edges := [], supply := .through s.params.captureStart }
    events := [] }

/-- Reset (R230): reserved bits of the configuration are refused, then every register gets its reset value. -/
def resetOp (cfg : CfgWord) (l0 : Level) (s : State) : Result :=
  if cfgLegal cfg then
    if s.fits s.params.captureStart then .next (s.restarted cfg l0) else .fault .indexOverflow
  else .refused .cfgReserved

/-- An event record as a packed word of `16 + 3 * W` bits (R83). -/
def Event.packed (W : Nat) (e : Event) : Nat :=
  e.flags.toNat + e.value * 2 ^ 16 + e.start * 2 ^ (16 + W) + e.last * 2 ^ (16 + 2 * W)

/-- The fields of a packed word (R83). -/
def Event.unpacked (W n : Nat) : Event :=
  { flags := BitVec.ofNat 16 n
    value := n / 2 ^ 16 % 2 ^ W
    start := n / 2 ^ (16 + W) % 2 ^ W
    last := n / 2 ^ (16 + 2 * W) % 2 ^ W }

/-- The packed word as bytes, the least significant first (R83). -/
def Event.bytes (W : Nat) (e : Event) : List Byte :=
  (List.range ((16 + 3 * W + 7) / 8)).map fun i => BitVec.ofNat 8 (e.packed W / 2 ^ (8 * i))

end Sys2Proof.Machine
end

