-- ==== Sys2Proof/Syntax.lean ====
section
/-! DEFINITION. The operations of the core, one constructor per row of spec/opcode_table.json (spec/30_encoding.md R90;
SYNC.FAIL has three rows there and three constructors here). An operation's operands are the bits of the dispatch key that
its row leaves open. -/

namespace Sys2Proof

/-- The width class of a pulse (R89); the encodings 5 to 7 are reserved and are no class. -/
inductive WidthClass where
  | ok
  | narrow
  | wide
  | long
  | wrongLevel
deriving DecidableEq, Repr

/-- The operations (R90). -/
inductive Instr where
  /-- `INIT_BREAK` (R114). -/
  | initBreak (cls : WidthClass)
  /-- `IDLE.U` (R112). -/
  | idleU (first : Bool) (cls : WidthClass)
  /-- `SYNC.START` (R152). -/
  | syncStart
  /-- `BREAK.U` (R153). -/
  | breakU (k : BitVec 4)
  /-- `SYNC.BIT` (R154). -/
  | syncBit (k : BitVec 4)
  /-- `SYNC.PAIR` (R155). -/
  | syncPair
  /-- `SYNC.DONE` (R157). -/
  | syncDone
  /-- `SYNC.FAIL`, class NARROW (R156). -/
  | syncFailNarrow (k : BitVec 4) (level : Level)
  /-- `SYNC.FAIL`, class WIDE (R156). -/
  | syncFailWide (k : BitVec 4) (level : Level)
  /-- `SYNC.FAIL`, class WRONG_LEVEL (R156). -/
  | syncFailWrongLevel (k : BitVec 4) (level : Level)
  /-- `IDLE.S` (R113). -/
  | idleS (cls : WidthClass)
  /-- `BREAK.S` (R181). -/
  | breakS
  /-- `RESYNC` (R182). -/
  | resync
  /-- `FRAME` (R183). -/
  | frame
  /-- `HALT`, which has no key: cancellation selects it (R117). -/
  | halt
deriving DecidableEq, Repr

/-- What selects the next operation: cancellation, or the dispatch key (R110, R117). -/
inductive Selector where
  | cancelled
  | keyed (key : Key)
deriving DecidableEq, Repr

/-- Why a key selects no operation (R91). -/
inductive KeyReject where
  /-- The class field holds a reserved value, 5 to 7. -/
  | reservedClass
  /-- The fields are legal one by one and match no row. -/
  | noRow
deriving DecidableEq, Repr

end Sys2Proof
end

