-- ==== Sys2Proof/Machine/Engine.lean ====
section
/-! DEFINITION. The operations of the engine loop itself: IDLE.U, IDLE.S, INIT_BREAK and HALT (spec/40_engine.md). -/

namespace Sys2Proof.Machine

/-- A pulse reported whole as one event with value 0, and the cursor moved to its end: what the IDLE and BREAK operations
share. `s'` holds the operation's register writes. -/
def reportPulse (s s' : State) (flags : FlagWord) : Result :=
  observe s fun T => finishEmit s { s' with pos := T } [T] s.pos T flags 0

/-- IDLE.U: a HIGH pulse while no pattern is in progress (R112). -/
def execIdleU (_first : Bool) (_cls : WidthClass) (s : State) : Result :=
  reportPulse s s flagIdle

/-- IDLE.S: inter-frame idle (R113). -/
def execIdleS (_cls : WidthClass) (s : State) : Result :=
  reportPulse s s flagIdle

/-- INIT_BREAK: the capture begins with the line LOW (R114). -/
def execInitBreak (_cls : WidthClass) (s : State) : Result :=
  reportPulse s s flagBreak

/-- HALT: cancellation ends the run; no event, and nothing else changes (R117). -/
def execHalt (s : State) : Result :=
  .next { s with halted := true }

end Sys2Proof.Machine
end

