-- ==== Sys2Proof/WellFormed.lean ====
section
/-! DEFINITION. Which operations the operation map holds: the ranges of a row's `k` (spec/30_encoding.md R90). -/

namespace Sys2Proof

/-- The operand ranges of R90. -/
def Instr.wellFormed : Instr → Bool
  | .breakU k => decide (k.toNat ≤ 9)
  | .syncBit k => decide (1 ≤ k.toNat ∧ k.toNat ≤ 7)
  | .syncFailNarrow k _ => decide (1 ≤ k.toNat ∧ k.toNat ≤ 9)
  | .syncFailWide k _ => decide (1 ≤ k.toNat ∧ k.toNat ≤ 9)
  | .syncFailWrongLevel k _ => decide (1 ≤ k.toNat ∧ k.toNat ≤ 9)
  | .initBreak _ => true
  | .idleU _ _ => true
  | .syncStart => true
  | .syncPair => true
  | .syncDone => true
  | .idleS _ => true
  | .breakS => true
  | .resync => true
  | .frame => true
  | .halt => true

end Sys2Proof
end

