-- ==== Sys2Proof/Decode.lean ====
section
/-! DEFINITION. From selector to operation and back: the fields of the dispatch key (spec/30_encoding.md R88, R89), the
decoder, the encoder, and the operation map of R90 as a table. -/

namespace Sys2Proof

/-- The level the training pattern requires at position `k`: LOW for even `k`, HIGH for odd `k` (R90, R133, R150). -/
def patternLevel (k : BitVec 4) : Level :=
  if k.getLsbD 0 then .high else .low

/-- A level as the bit that encodes it (R10). -/
def Level.ofBit (b : Bool) : Level :=
  if b then .high else .low

/-- A phase as the bit that encodes it (R20). -/
def Phase.ofBit (b : Bool) : Phase :=
  if b then .synchronized else .unsynchronized

/-- The class encoding of R89. -/
def WidthClass.bits : WidthClass → BitVec 3
  | .ok => 0#3
  | .narrow => 1#3
  | .wide => 2#3
  | .long => 3#3
  | .wrongLevel => 4#3

/-- The class a value of the field encodes; 5 to 7 are reserved (R89). -/
def WidthClass.ofBits (v : BitVec 3) : Option WidthClass :=
  match v.toNat with
  | 0 => some .ok
  | 1 => some .narrow
  | 2 => some .wide
  | 3 => some .long
  | 4 => some .wrongLevel
  | _ => none

/-- Bit 9 of the key, `st.first` (R88). -/
def keyFirst (key : Key) : Bool := key.getLsbD 9

/-- Bit 8 of the key, `st.phase` (R88). -/
def keyPhase (key : Key) : Phase := Phase.ofBit (key.getLsbD 8)

/-- Bits 7 to 4 of the key, `st.k` (R88). -/
def keyK (key : Key) : BitVec 4 := key.extractLsb' 4 4

/-- Bit 3 of the key, `Level(pos)` (R88). -/
def keyLevel (key : Key) : Level := Level.ofBit (key.getLsbD 3)

/-- Bits 2 to 0 of the key, the width class (R88). -/
def keyCls (key : Key) : BitVec 3 := key.extractLsb' 0 3

/-- The key of the given fields, laid out as R88 lays it out. -/
def packKey (first : Bool) (phase : Phase) (k : BitVec 4) (level : Level) (cls : BitVec 3) : Key :=
  BitVec.ofBool first ++ BitVec.ofBool phase.isSync ++ k ++ BitVec.ofBool level.isHigh ++ cls

/-- The rows with `phase = 0` and `k = 0`: Idle-wait (R90). -/
def decodeIdleWait (first : Bool) (level : Level) (cls : WidthClass) : Except KeyReject Instr :=
  match level with
  | .high => .ok (.idleU first cls)
  | .low =>
    if first then .ok (.initBreak cls)
    else
      match cls with
      | .ok => .ok .syncStart
      | .long => .ok (.breakU 0#4)
      | .narrow => .error .noRow
      | .wide => .error .noRow
      | .wrongLevel => .error .noRow

/-- The rows with `phase = 0` and `k` in 1 to 9: Sync-training (R90). -/
def decodeTraining (k : BitVec 4) (level : Level) (cls : WidthClass) : Except KeyReject Instr :=
  match cls with
  | .narrow => .ok (.syncFailNarrow k level)
  | .wide => .ok (.syncFailWide k level)
  | .wrongLevel => .ok (.syncFailWrongLevel k level)
  | .long => if level = .low then .ok (.breakU k) else .error .noRow
  | .ok =>
    if level ≠ patternLevel k then .error .noRow
    else if k.toNat ≤ 7 then .ok (.syncBit k)
    else if k.toNat = 8 then .ok .syncPair
    else .ok .syncDone

/-- The rows with `phase = 1` and `k = 0`: Frame-decode (R90). -/
def decodeFrameDecode (level : Level) (cls : WidthClass) : Except KeyReject Instr :=
  match level with
  | .high => .ok (.idleS cls)
  | .low =>
    match cls with
    | .ok => .ok .frame
    | .narrow => .ok .resync
    | .long => .ok .breakS
    | .wide => .error .noRow
    | .wrongLevel => .error .noRow

/-- The operation map on fields (R90, R91). -/
def decodeFields (first : Bool) (phase : Phase) (k : BitVec 4) (level : Level) (cls : WidthClass) :
    Except KeyReject Instr :=
  match phase with
  | .unsynchronized =>
    if k = 0#4 then decodeIdleWait first level cls
    else if first then .error .noRow
    else if k.toNat ≤ 9 then decodeTraining k level cls
    else .error .noRow
  | .synchronized =>
    if first then .error .noRow
    else if k = 0#4 then decodeFrameDecode level cls
    else .error .noRow

/-- The operation a key selects, or why it selects none (R90, R91; log entry 2 for the reserved classes). -/
def decodeKey (key : Key) : Except KeyReject Instr :=
  match WidthClass.ofBits (keyCls key) with
  | none => .error .reservedClass
  | some cls => decodeFields (keyFirst key) (keyPhase key) (keyK key) (keyLevel key) cls

/-- The operation a selector selects: cancellation selects HALT (R117). -/
def decode : Selector → Except KeyReject Instr
  | .cancelled => .ok .halt
  | .keyed key => decodeKey key

/-- The selector of an operation, written from the rows of R90: each row's match value with its open bits filled in. -/
def encode : Instr → Selector
  | .initBreak cls => .keyed (0x200#10 ||| cls.bits.zeroExtend 10)
  | .idleU first cls =>
      .keyed (0x008#10 ||| (if first then 0x200#10 else 0#10) ||| cls.bits.zeroExtend 10)
  | .syncStart => .keyed 0x000#10
  | .breakU k => .keyed (0x003#10 ||| (k.zeroExtend 10 <<< 4))
  | .syncBit k =>
      .keyed (0x000#10 ||| (k.zeroExtend 10 <<< 4) ||| (if k.getLsbD 0 then 0x008#10 else 0#10))
  | .syncPair => .keyed 0x080#10
  | .syncDone => .keyed 0x098#10
  | .syncFailNarrow k level =>
      .keyed (0x001#10 ||| (k.zeroExtend 10 <<< 4) ||| (if level = .high then 0x008#10 else 0#10))
  | .syncFailWide k level =>
      .keyed (0x002#10 ||| (k.zeroExtend 10 <<< 4) ||| (if level = .high then 0x008#10 else 0#10))
  | .syncFailWrongLevel k level =>
      .keyed (0x004#10 ||| (k.zeroExtend 10 <<< 4) ||| (if level = .high then 0x008#10 else 0#10))
  | .idleS cls => .keyed (0x108#10 ||| cls.bits.zeroExtend 10)
  | .breakS => .keyed 0x103#10
  | .resync => .keyed 0x101#10
  | .frame => .keyed 0x100#10
  | .halt => .cancelled

/-- The match value of an operation's row in R90; HALT has no row there. -/
def rowMatch : Instr → Option Key
  | .initBreak _ => some 0x200#10
  | .idleU _ _ => some 0x008#10
  | .syncStart => some 0x000#10
  | .breakU _ => some 0x003#10
  | .syncBit _ => some 0x000#10
  | .syncPair => some 0x080#10
  | .syncDone => some 0x098#10
  | .syncFailNarrow _ _ => some 0x001#10
  | .syncFailWide _ _ => some 0x002#10
  | .syncFailWrongLevel _ _ => some 0x004#10
  | .idleS _ => some 0x108#10
  | .breakS => some 0x103#10
  | .resync => some 0x101#10
  | .frame => some 0x100#10
  | .halt => none

/-- The mask of an operation's row in R90. -/
def rowMask : Instr → Key
  | .initBreak _ => 0x3F8#10
  | .idleU _ _ => 0x1F8#10
  | .syncStart => 0x3FF#10
  | .breakU _ => 0x30F#10
  | .syncBit _ => 0x307#10
  | .syncPair => 0x3FF#10
  | .syncDone => 0x3FF#10
  | .syncFailNarrow _ _ => 0x307#10
  | .syncFailWide _ _ => 0x307#10
  | .syncFailWrongLevel _ _ => 0x307#10
  | .idleS _ => 0x3F8#10
  | .breakS => 0x3FF#10
  | .resync => 0x3FF#10
  | .frame => 0x3FF#10
  | .halt => 0x000#10

/-- The operation a word of the opcode table selects. A table word is a key; the table gives HALT no bits, so a word of no
bits stands for the cancellation that selects it (log entry 3). -/
def decodeTableWord (nbits w : Nat) : Option Instr :=
  if nbits = 0 then (decode .cancelled).toOption
  else if w < 1024 then (decode (.keyed (BitVec.ofNat 10 w))).toOption
  else none

end Sys2Proof
end

