-- ==== Sys2Proof/Machine/Operands.lean ====
section
/-! DEFINITION. Operand assembly (spec/30_encoding.md R92): the fields of the configuration word (R86), the tolerance band
and the width classes (spec/41_bit_timing.md R131 to R136), the dispatch key (R88), and the sample positions and the byte of a frame
(spec/43_frame_decoder.md R184). -/

namespace Sys2Proof.Machine

/-- `TOL_SEL`, bit 0 of the configuration word (R86). -/
def cfgTolSel (cfg : CfgWord) : Bool := cfg.getLsbD 0

/-- `EMIT_DIAG`, bit 1 of the configuration word (R86). -/
def cfgEmitDiag (cfg : CfgWord) : Bool := cfg.getLsbD 1

/-- `RETAG_55`, bit 2 of the configuration word (R86). -/
def cfgRetag55 (cfg : CfgWord) : Bool := cfg.getLsbD 2

/-- `SYNC9_UPPER`, bit 3 of the configuration word (R86). -/
def cfgSync9Upper (cfg : CfgWord) : Bool := cfg.getLsbD 3

/-- The policy `TOL_B`, the band from 3/4 to 5/2 (R8). -/
def tolB : Tolerance := { loNum := 3, loDen := 4, hiNum := 5, hiDen := 2 }

/-- The policy `TOL_A`, the band from 1/2 to 3/2 (R8). -/
def tolA : Tolerance := { loNum := 1, loDen := 2, hiNum := 3, hiDen := 2 }

/-- The policy of the session (R131). -/
def tolerance (cfg : CfgWord) : Tolerance :=
  if cfgTolSel cfg then tolA else tolB

/-- `NARROW(w, r10)`: the width is below the band's floor, at a reference of `r10 / 10` samples (R131). -/
def isNarrow (cfg : CfgWord) (w r10 : Nat) : Bool :=
  decide (10 * (tolerance cfg).loDen * w < (tolerance cfg).loNum * r10)

/-- `WIDE(w, r10)`: the width is above the band's ceiling, at a reference of `r10 / 10` samples (R131). -/
def isWide (cfg : CfgWord) (w r10 : Nat) : Bool :=
  decide (10 * (tolerance cfg).hiDen * w > (tolerance cfg).hiNum * r10)

/-- `LONG(L, w)`: a LOW pulse wider than 13 bit periods, once a bit period exists (R134). -/
def isLong (bp10 : Nat) (level : Level) (w : Nat) : Bool :=
  decide (level = .low ∧ bp10 ≠ 0 ∧ 10 * w > 13 * bp10)

/-- The expected level, the multiple of `prov` that is the reference, and whether the ceiling applies, at pattern position
`k` in 1 to 9 (R133, R136). -/
def positionCheck (cfg : CfgWord) (k : BitVec 4) : Option (Level × Nat × Bool) :=
  if 1 ≤ k.toNat ∧ k.toNat ≤ 7 then some (patternLevel k, 1, true)
  else if k.toNat = 8 then some (.low, 2, true)
  else if k.toNat = 9 then some (.high, 2, cfgSync9Upper cfg)
  else none

/-- The class of a pulse at a pattern position with the given check: wrong level, then too narrow, then too wide (R136). -/
def classifyAt (cfg : CfgWord) (prov : Nat) (level : Level) (w : Nat) (check : Level × Nat × Bool) : WidthClass :=
  if level ≠ check.1 then .wrongLevel
  else if isNarrow cfg w (10 * check.2.1 * prov) then .narrow
  else if check.2.2 && isWide cfg w (10 * check.2.1 * prov) then .wide
  else .ok

/-- `cls(st, L, w)` (R136); none where the class is undefined, at `k` in 10 to 15. -/
def classify (s : State) (level : Level) (w : Nat) : Option WidthClass :=
  if s.first then some .ok
  else if isLong s.bp10 level w then some .long
  else
    match s.phase with
    | .synchronized => some (if level = .low ∧ isNarrow s.cfg w s.bp10 then .narrow else .ok)
    | .unsynchronized =>
      if s.k = 0#4 then some .ok
      else (positionCheck s.cfg s.k).map (classifyAt s.cfg s.prov level w)

/-- The dispatch key of a step whose pulse ends at `T` (R88, R110); none where the class is undefined. -/
def dispatchKey (s : State) (T : Nat) : Option Key :=
  (classify s (s.chan.level s.pos) (T - s.pos)).map fun cls =>
    packKey s.first s.phase s.k (s.chan.level s.pos) cls.bits

/-- `C(j)`: the centre of bit `j` of a frame that starts at `s0` (R184). -/
def bitCentre (s0 b j : Nat) : Nat :=
  s0 + (2 * j + 1) * b / 20

/-- `B12`: the nominal end of a frame that starts at `s0` (R184). -/
def frameEnd (s0 b : Nat) : Nat :=
  s0 + 12 * b / 10

/-- The byte with the given bits, least significant first (R184). -/
def assembleByte (bit : Nat → Bool) : Byte :=
  BitVec.ofNat 8 (((List.range 8).map fun i => if bit i then 2 ^ i else 0).sum)

/-- The data byte of a frame: bit `i` is the level at `C(i + 1)` (R184). -/
def dataByte (c : Channel) (s0 b : Nat) : Byte :=
  assembleByte fun i => (c.level (bitCentre s0 b (i + 1))).isHigh

/-- `R`: where the cursor resumes after a frame, or none where the step blocks (R183, R187). -/
def frameResume (c : Channel) (s0 b : Nat) : Option Nat :=
  match c.level (bitCentre s0 b 11) with
  | .low => c.nextT (bitCentre s0 b 11)
  | .high =>
    if c.supplied (frameEnd s0 b) then
      if 1 ≤ c.crossed (bitCentre s0 b 11) (frameEnd s0 b) then c.nextT (bitCentre s0 b 11)
      else some (frameEnd s0 b)
    else none

end Sys2Proof.Machine
end

