-- ==== Sys2Proof/Machine/FrameDecoder.lean ====
section
/-! DEFINITION. The operations of the FrameDecoder (spec/43_frame_decoder.md). -/

namespace Sys2Proof.Machine

/-- BREAK.S: a LOW pulse longer than 13 bit periods while synchronised (R181). -/
def execBreakS (s : State) : Result :=
  reportPulse s { s with phase := .unsynchronized, k := 0#4 } flagBreak

/-- RESYNC: a start bit below the tolerance floor; the same pulse is examined again by the next step (R182). -/
def execResync (s : State) : Result :=
  observe s fun _ => finish s { s with phase := .unsynchronized, k := 0#4 } []

/-- What a frame reads from the channel: the byte, the two error conditions and the point where the cursor resumes. -/
structure FrameReading where
  byte : Byte
  perr : Bool
  ferr : Bool
  resume : Nat
deriving DecidableEq, Repr

/-- The reading of a frame that starts at `s0`, or none where the channel has not supplied what it needs (R183 to R187). -/
def readFrame (c : Channel) (s0 b : Nat) : Option FrameReading :=
  if c.supplied (bitCentre s0 b 11) then
    (frameResume c s0 b).map fun r =>
      { byte := dataByte c s0 b
        perr := parityError (dataByte c s0 b) (c.level (bitCentre s0 b 9))
        ferr := framingError (c.level (bitCentre s0 b 10)) (c.level (bitCentre s0 b 11))
          (c.crossed (bitCentre s0 b 10) (bitCentre s0 b 11))
        resume := r }
  else none

/-- An error-free 0x55 is retagged when the configuration says so (R188). -/
def retagged (cfg : CfgWord) (f : FrameReading) : Bool :=
  cfgRetag55 cfg && (f.byte == 0x55#8) && !f.perr && !f.ferr

/-- The flags of a frame's event (R188). -/
def frameFlags (cfg : CfgWord) (f : FrameReading) : FlagWord :=
  if retagged cfg f then flagSync else dataFlags f.perr f.ferr

/-- The value of a frame's event (R84, R188). -/
def frameValue (cfg : CfgWord) (b : Nat) (f : FrameReading) : Nat :=
  if retagged cfg f then b else f.byte.toNat

/-- FRAME: decode one frame from its start bit (R183). -/
def execFrame (s : State) : Result :=
  observe s fun _ =>
    match readFrame s.chan s.pos s.bp10 with
    | none => .next s
    | some f =>
      finishEmit s { s with pos := f.resume } [f.resume] s.pos f.resume (frameFlags s.cfg f)
        (frameValue s.cfg s.bp10 f)

/-- The cursor at `p` walks to the bit centres listed in `js`, one `advanceBy` each: the levels found there, the count that
the last move returned, and the cursor (R183). -/
def walkCentres (c : Channel) (s0 b : Nat) : List Nat → Nat → Nat → Option (List Level × Nat × Nat)
  | [], p, n => some ([], n, p)
  | j :: js, p, _ =>
    match c.advanceBy p (bitCentre s0 b j - p) with
    | none => none
    | some (q, m) => (walkCentres c s0 b js q m).map fun r => (c.level q :: r.1, r.2)

/-- The cursor's last move of a frame: to the next transition after a LOW stop 2, else to the frame's end, or to a transition
on the way there (R183, R187). -/
def walkResume (c : Channel) (s0 b p : Nat) (stop2 : Level) : Option Nat :=
  match stop2 with
  | .low => c.advanceToNextTransition p
  | .high =>
    match c.advanceBy p (frameEnd s0 b - p) with
    | none => none
    | some (q, n) => if 1 ≤ n then c.advanceToNextTransition p else some q

/-- The reading of a frame as cursor moves on the channel, the second form in which R183 gives it: pass the start bit's
centre, then sample the eleven others in order. -/
def walkFrame (c : Channel) (s0 b : Nat) : Option FrameReading :=
  match walkCentres c s0 b (List.range 12) s0 0 with
  | none => none
  | some (levels, n, p) =>
    (walkResume c s0 b p (levels.getD 11 .low)).map fun r =>
      { byte := assembleByte fun i => (levels.getD (i + 1) .low).isHigh
        perr := parityError (assembleByte fun i => (levels.getD (i + 1) .low).isHigh) (levels.getD 9 .low)
        ferr := framingError (levels.getD 10 .low) (levels.getD 11 .low) n
        resume := r }

end Sys2Proof.Machine
end

