-- ==== Sys2Proof/Machine/SyncDetector.lean ====
section
/-! DEFINITION. The operations of the SyncDetector (spec/42_sync_detector.md). The key's `k` and level are the state's own,
so the meanings read them there. -/

namespace Sys2Proof.Machine

/-- SYNC.START: the first LOW pulse in Idle-wait opens a pattern (R152). -/
def execSyncStart (s : State) : Result :=
  observe s fun T =>
    finish s { s with origin := s.pos, prov := T - s.pos, k := 1#4, pos := T } [s.pos, T - s.pos, T]

/-- BREAK.U: a LOW pulse longer than 13 bit periods while unsynchronised; a pattern in progress is abandoned (R153). -/
def execBreakU (_k : BitVec 4) (s : State) : Result :=
  reportPulse s { s with k := 0#4 } flagBreak

/-- SYNC.BIT: pattern positions 1 to 7 (R154). -/
def execSyncBit (_k : BitVec 4) (s : State) : Result :=
  observe s fun T => finish s { s with k := s.k + 1#4, pos := T } [T]

/-- SYNC.PAIR: pattern position 8 (R155). -/
def execSyncPair (s : State) : Result :=
  observe s fun T => finish s { s with k := 9#4, pos := T } [T]

/-- A failed match: the failing pulse is consumed, and with `EMIT_DIAG` one event covers the whole attempt (R156). -/
def failPattern (s : State) (flag : FlagWord) : Result :=
  observe s fun T =>
    if cfgEmitDiag s.cfg then
      finishEmit s { s with k := 0#4, pos := T } [T] s.origin T flag s.k.toNat
    else finish s { s with k := 0#4, pos := T } [T]

/-- SYNC.FAIL on a pulse that is too narrow (R156). -/
def execSyncFailNarrow (_k : BitVec 4) (_level : Level) (s : State) : Result :=
  failPattern s flagNarrow

/-- SYNC.FAIL on a pulse that is too wide (R156). -/
def execSyncFailWide (_k : BitVec 4) (_level : Level) (s : State) : Result :=
  failPattern s flagWide

/-- SYNC.FAIL on a pulse of the wrong level (R156). -/
def execSyncFailWrongLevel (_k : BitVec 4) (_level : Level) (s : State) : Result :=
  failPattern s flagWrongBit

/-- `R`: the end of stop 2, two bit periods after `p`, or the end `T` of the HIGH pulse if that comes first (R157). -/
def syncResume (p b T : Nat) : Nat :=
  min T (p + b / 5)

/-- SYNC.DONE: the pattern is complete and the engine locks the period `b = pos - origin` (R157). A span below 0 is no
`SAMPLE_W`-bit value (R33; log entry 10). -/
def execSyncDone (s : State) : Result :=
  observe s fun T =>
    if s.pos < s.origin then .fault .indexOverflow
    else
      finishEmit s
        { s with
          bp10 := s.pos - s.origin
          phase := .synchronized
          k := 0#4
          pos := syncResume s.pos (s.pos - s.origin) T }
        [s.pos - s.origin, syncResume s.pos (s.pos - s.origin) T]
        s.origin (syncResume s.pos (s.pos - s.origin) T) flagSync (s.pos - s.origin)

end Sys2Proof.Machine
end

