-- ==== Sys2Proof/Machine/Dispatch.lean ====
section
/-! DEFINITION. One arm per operation (spec/30_encoding.md R90). -/

namespace Sys2Proof.Machine

def exec (i : Instr) (s : State) : Host.Outcome State Fault Refusal :=
  match i with
  | .initBreak cls => Sys2Proof.Machine.execInitBreak cls s
  | .idleU first cls => Sys2Proof.Machine.execIdleU first cls s
  | .syncStart => Sys2Proof.Machine.execSyncStart s
  | .breakU k => Sys2Proof.Machine.execBreakU k s
  | .syncBit k => Sys2Proof.Machine.execSyncBit k s
  | .syncPair => Sys2Proof.Machine.execSyncPair s
  | .syncDone => Sys2Proof.Machine.execSyncDone s
  | .syncFailNarrow k level => Sys2Proof.Machine.execSyncFailNarrow k level s
  | .syncFailWide k level => Sys2Proof.Machine.execSyncFailWide k level s
  | .syncFailWrongLevel k level => Sys2Proof.Machine.execSyncFailWrongLevel k level s
  | .idleS cls => Sys2Proof.Machine.execIdleS cls s
  | .breakS => Sys2Proof.Machine.execBreakS s
  | .resync => Sys2Proof.Machine.execResync s
  | .frame => Sys2Proof.Machine.execFrame s
  | .halt => Sys2Proof.Machine.execHalt s

end Sys2Proof.Machine
end

