-- ==== Sys2Proof/Machine/Environment.lean ====
section
/-! DEFINITION. The host's turns (spec/20_memory.md R67; spec/70_reset_and_hazards.md R230, R233, R234). -/

namespace Sys2Proof.Machine

/-- The channel supplies its next transition, at `t`. A transition at a sample that is supplied already and is none changes
a supplied sample (R51, R234). -/
def supplyEdge (t : Nat) (s : State) : Result :=
  if s.chan.supplied t then
    if t ∈ s.chan.edges then .next s else .refused .cursorMoved
  else .next { s with chan := { s.chan with edges := s.chan.edges ++ [t], supply := .through t } }

/-- The channel supplies samples through `n` without a transition (R54). -/
def supplyQuiet (n : Nat) (s : State) : Result :=
  if s.chan.supplied n then .next s
  else .next { s with chan := { s.chan with supply := .through n } }

/-- One turn of the host (R67). `setCancel false` withdraws a cancellation that no turn of the core has examined yet, also
while a step is blocked: the spec says only that the host may assert `cancel` (DESIGN CHOICE, log entry 16). -/
def hostTurn (a : HostAction) (s : State) : Result :=
  match a with
  | .reset cfg l0 => resetOp cfg l0 s
  | .supplyEdge t => supplyEdge t s
  | .supplyQuiet n => supplyQuiet n s
  | .supplyRest => .next { s with chan := { s.chan with supply := .all } }
  | .setCancel on => .next { s with cancel := on }
  | .setSink sink => .next { s with sink := sink }
  | .presentCfg cfg => if s.halted || cfg == s.cfg then .next s else .refused .cfgChanged
  | .moveCursor n => if n = s.pos then .next s else .refused .cursorMoved
  | .alterSample n =>
    if s.params.captureStart ≤ n ∧ s.chan.supplied n then .refused .cursorMoved else .next s

end Sys2Proof.Machine
end

