-- ==== Sys2Proof/Machine/Fetch.lean ====
section
/-! DEFINITION. How the core selects its next operation (spec/40_engine.md R110, R117): the counterpart of an instruction
fetch. -/

namespace Sys2Proof.Machine

/-- What the core does on its turn. -/
inductive Fetched where
  /-- Nothing: the engine is halted, or the step is blocked (R115, R117). -/
  | waits
  /-- The step faults before any operation is selected. -/
  | faults (r : Fault)
  /-- It performs this operation. -/
  | runs (i : Instr)
deriving DecidableEq, Repr

/-- The operation a key selects, or the fault of a key that matches no row (R91). -/
def selectKeyed (key : Option Key) : Fetched :=
  match key with
  | none => .faults .unreachableKey
  | some key =>
    match decode (.keyed key) with
    | .ok i => .runs i
    | .error _ => .faults .unreachableKey

/-- A halted engine takes no step; a cancellation that is pending on this turn selects HALT (log entry 16); else the pulse at
the cursor selects the operation, once its end is supplied (R110, R115, R117). -/
def fetch (s : State) : Fetched :=
  if s.halted then .waits
  else if s.cancel then .runs .halt
  else if s.pos < s.params.captureStart then .faults .sampleBelowStart
  else
    match s.chan.nextT s.pos with
    | none => .waits
    | some T => selectKeyed (dispatchKey s T)

/-- The width in samples of the pulse that makes the key's class come out, at a provisional period of 100 samples, a locked
period of 100 samples and either tolerance policy. -/
def fetchWidth (k : BitVec 4) (cls : BitVec 3) : Nat :=
  if cls = 1#3 then 10
  else if cls = 2#3 then 600
  else if cls = 3#3 then 1400
  else if 8 ≤ k.toNat then 200
  else 100

/-- The cursor of a placed key. At the first step it stays; at a later one the last 1000 samples are a pattern's or lie
before a frame. -/
def placedPos (s : State) (key : Key) : Nat :=
  if keyFirst key then max s.pos s.params.captureStart else max s.pos s.params.captureStart + 1000

/-- The end of the placed pulse. -/
def placedEnd (s : State) (key : Key) : Nat :=
  placedPos s key + fetchWidth (keyK key) (keyCls key)

/-- The key's fields in the registers, and on the channel one pulse of the key's level and class at the cursor: the state in
which the dispatch finds this key (log entry 3). -/
def State.placeKey (s : State) (key : Key) : State :=
  { s with
    first := keyFirst key
    phase := keyPhase key
    k := keyK key
    pos := placedPos s key
    origin := if keyFirst key then s.origin else max s.pos s.params.captureStart
    prov := if keyFirst key then s.prov else 100
    bp10 := if keyFirst key then s.bp10 else 1000
    cfg := if keyCls key = 2#3 ∧ keyK key = 9#4 then s.cfg ||| 8#32 else s.cfg
    chan :=
      if keyFirst key then { l0 := keyLevel key, edges := [placedEnd s key], supply := .all }
      else { l0 := (keyLevel key).flip, edges := [placedPos s key, placedEnd s key], supply := .all } }

end Sys2Proof.Machine
end

