-- ==== Sys2Proof/Machine/Step.lean ====
section
/-! DEFINITION. One step: the next turn, the core's or the host's (spec/40_engine.md R110; log entry 8). -/

namespace Sys2Proof.Machine

/-- The core's turn. A halted or blocked core leaves the state as it is (R115, R222). -/
def coreTurn (s : State) : Host.Outcome State Fault Refusal :=
  match fetch s with
  | .waits => .next s
  | .faults r => .fault r
  | .runs i => exec i s

/-- One step takes the first settled turn; when none is left the turn is the core's. -/
def step (s : State) : Host.Outcome State Fault Refusal :=
  match s.turns with
  | [] => coreTurn s
  | .core :: rest => coreTurn { s with turns := rest }
  | .host a :: rest => hostTurn a { s with turns := rest }

/-- The state in which the next step runs the operation of the table word `w` (log entry 3). A word of no bits is the
cancellation that selects HALT. -/
def State.withFetchWord (s : State) (nbits w : Nat) : State :=
  if nbits = 0 then { s with turns := [], halted := false, cancel := true }
  else { s.placeKey (BitVec.ofNat 10 w) with turns := [], halted := false, cancel := false }

end Sys2Proof.Machine
end

