-- ==== Sys2Proof/Safety.lean ====
section
/-! DEFINITION. What the statements speak of: the invariants of the spec (spec/10_state.md R34, spec/20_memory.md R59, R60), the
conditions under which an operation completes, and agreement of two states up to unobservable data. -/

namespace Sys2Proof.Machine

/-- The invariants (a) to (f) of R34, as the spec lists them. -/
structure StateInvariant (s : State) : Prop where
  syncNoPattern : s.phase = .synchronized → s.k = 0#4
  syncPeriod : s.phase = .synchronized → 9 ≤ s.bp10
  trainingPeriod : 1 ≤ s.k.toNat → s.k.toNat ≤ 9 → 1 ≤ s.prov ∧ s.origin < s.pos
  position : s.k.toNat ≤ 9
  firstStep : s.first = true → s.phase = .unsynchronized ∧ s.k = 0#4 ∧ s.pos = s.params.captureStart
  lowAtEdge : s.first = false → s.chan.level s.pos = .low → s.pos ∈ s.chan.edges

/-- An inductive strengthening of R34: the channel is canonical, the registers fit in their widths, the cursor stands on a
supplied sample, the configuration is legal, and the pattern in progress is as long as its position says and has the level
that its position requires (R33, R51, R57, R87, R150). -/
structure EngineInvariant (s : State) : Prop where
  r34 : StateInvariant s
  legal : s.params.Legal
  cfgReserved : cfgLegal s.cfg = true
  chanWf : s.chan.Wf s.params.captureStart
  posStart : s.params.captureStart ≤ s.pos
  posSupplied : s.chan.supplied s.pos = true
  posFits : s.fits s.pos = true
  originFits : s.fits s.origin = true
  provFits : s.fits s.prov = true
  bp10Fits : s.fits s.bp10 = true
  patternSpan : 1 ≤ s.k.toNat → s.params.captureStart ≤ s.origin ∧ s.origin + s.k.toNat ≤ s.pos
  patternEdge : 1 ≤ s.k.toNat → s.pos ∈ s.chan.edges ∧ s.chan.level s.pos = patternLevel s.k

/-- The first sample that no settled pulse covers: the start of the pattern in progress, else the cursor. -/
def State.mark (s : State) : Nat :=
  if 1 ≤ s.k.toNat then s.origin else s.pos

/-- The event stream is in order: ranges do not overlap and their starts rise (R59), every record is well formed (R58, R82,
R85) and lies before the samples still in progress. -/
structure StreamInvariant (s : State) : Prop where
  ordered : s.events.Pairwise fun a b => a.last < b.start
  ranges : ∀ e ∈ s.events, s.params.captureStart ≤ e.start ∧ e.start ≤ e.last ∧ e.last < s.mark
  flagSets : ∀ e ∈ s.events, e.flags ∈ legalFlagSets
  fields : ∀ e ∈ s.events, s.fits e.start = true ∧ s.fits e.last = true ∧ s.fits e.value = true
  dataBytes : ∀ e ∈ s.events, e.flags &&& flagData = flagData → e.value < 256

/-- The records tile the samples from `a` up to, not including, `b` (R60). -/
def Tiles : Nat → List Event → Nat → Prop
  | a, [], b => a = b
  | a, e :: rest, b => e.start = a ∧ e.start ≤ e.last ∧ Tiles (e.last + 1) rest b

/-- The pulse at the cursor ends at `T`, and its end is supplied: what every operation on a pulse needs (R110, R115). -/
def PulseEnds (s : State) (T : Nat) : Prop :=
  s.params.captureStart ≤ s.pos ∧ s.chan.nextT s.pos = some T

/-- The channel has supplied what a frame at the cursor needs, and the cursor resumes at `R`: at the end of a LOW stop 2, at a
transition between the centre of stop 2 and the frame's end, else at the frame's end (R183, R187). -/
def FrameResumesAt (s : State) (R : Nat) : Prop :=
  s.chan.supplied (s.pos + 23 * s.bp10 / 20) = true ∧
    ((s.chan.level (s.pos + 23 * s.bp10 / 20) = .low ∧ s.chan.nextT (s.pos + 23 * s.bp10 / 20) = some R) ∨
    (s.chan.level (s.pos + 23 * s.bp10 / 20) = .high ∧ s.chan.supplied (s.pos + 12 * s.bp10 / 10) = true ∧
      1 ≤ s.chan.crossed (s.pos + 23 * s.bp10 / 20) (s.pos + 12 * s.bp10 / 10) ∧
      s.chan.nextT (s.pos + 23 * s.bp10 / 20) = some R) ∨
    (s.chan.level (s.pos + 23 * s.bp10 / 20) = .high ∧ s.chan.supplied (s.pos + 12 * s.bp10 / 10) = true ∧
      s.chan.crossed (s.pos + 23 * s.bp10 / 20) (s.pos + 12 * s.bp10 / 10) = 0 ∧
      R = s.pos + 12 * s.bp10 / 10))

/-- The engine takes a step on its turn: it is not halted and no cancellation is pending (R110, R117). -/
def Enabled (s : State) : Prop :=
  s.halted = false ∧ s.cancel = false

/-- The channel `d` has supplied everything that `c` has, unchanged, and perhaps more (R51). -/
def Extends (c d : Channel) : Prop :=
  c.l0 = d.l0 ∧ (∃ more, d.edges = c.edges ++ more ∧ ∀ t ∈ more, c.supplied t = false) ∧
    ∀ n, c.supplied n = true → d.supplied n = true

/-- Two states that differ at most in `origin` and `prov`, and there only while no pattern is in progress (R35). -/
def SameButDead (s t : State) : Prop :=
  t = { s with origin := t.origin, prov := t.prov } ∧
    (1 ≤ s.k.toNat → t.origin = s.origin ∧ t.prov = s.prov)

/-- A result with its next state mapped. -/
def mapNext (f : State → State) (r : Result) : Result :=
  match r with
  | .next t => .next (f t)
  | .fault e => .fault e
  | .refused e => .refused e

/-- The state of an instance with other values of the two parameters that no rule reads (R7). -/
def State.withHints (s : State) (rateHint channelId : Nat) : State :=
  { s with params := { s.params with rateHint := rateHint, channelId := channelId } }

/-- The transitions that `ws` consecutive pulses from sample `p` on end at. -/
def pulseEnds : Nat → List Nat → List Nat
  | _, [] => []
  | p, w :: ws => (p + w) :: pulseEnds (p + w) ws

end Sys2Proof.Machine
end

