-- ==== Sys2Proof/Certificates/Slice0/Obligations.lean ====
section
/-! DEFINITION. The statements about the machine, from the numbered rules of spec/. -/

open Sys2Proof
open Sys2Proof.Machine

/-! ## Encodings -/

/-- Every well-formed operation is decoded from its own selector, with every operand at every value its row admits
(R88 to R90). -/
def Obligations.DecodeInvertsEncode : Prop :=
  ∀ i : Instr, i.wellFormed = true → decode (encode i) = .ok i

/-- A selector that decodes is the selector of the well-formed operation it decodes to: no two selectors share an operation
with its operands, and nothing outside the rows decodes (R90, R91). -/
def Obligations.EncodeInvertsDecode : Prop :=
  ∀ (sel : Selector) (i : Instr), decode sel = .ok i → i.wellFormed = true ∧ encode i = sel

/-- A key that decodes lies in the row of its operation, bit by bit of the row's mask, and a key in the row of INIT_BREAK,
IDLE.U, IDLE.S, SYNC.START, SYNC.PAIR, SYNC.DONE, BREAK.S, RESYNC or FRAME whose class is not reserved decodes to that
operation (R90; the reserved classes are log entry 2). -/
def Obligations.DecodeFollowsOperationMap : Prop :=
  (∀ (key : Key) (i : Instr), decodeKey key = .ok i → rowMatch i = some (key &&& rowMask i)) ∧
    ∀ (key : Key) (cls : WidthClass), WidthClass.ofBits (keyCls key) = some cls →
      (key &&& 0x3F8#10 = 0x200#10 → decodeKey key = .ok (.initBreak cls)) ∧
      (key &&& 0x1F8#10 = 0x008#10 → decodeKey key = .ok (.idleU (keyFirst key) cls)) ∧
      (key &&& 0x3F8#10 = 0x108#10 → decodeKey key = .ok (.idleS cls)) ∧
      (key = 0x000#10 → decodeKey key = .ok .syncStart) ∧
      (key = 0x080#10 → decodeKey key = .ok .syncPair) ∧
      (key = 0x098#10 → decodeKey key = .ok .syncDone) ∧
      (key = 0x103#10 → decodeKey key = .ok .breakS) ∧
      (key = 0x101#10 → decodeKey key = .ok .resync) ∧
      (key = 0x100#10 → decodeKey key = .ok .frame)

/-- The keys that match no row are exactly these: `k` in 10 to 15; `phase = 1` with `k ≠ 0`; `first = 1` with `phase = 1` or
`k ≠ 0`; the classes 5 to 7; with `first = 0` and `k = 0`, a LOW level with WIDE or WRONG_LEVEL, or with NARROW and `phase = 0`;
with `k ≠ 0`, a HIGH level with LONG; and with `k ≠ 0`, OK with a level that is not `k mod 2`. Every other key decodes, the
ones in a row's don't-care columns among them, whatever R136 can produce there (log entry 2). The engine's turn on a key that
matches no row, or where the class is undefined, is `fault UnreachableKey` (R91, R136). -/
def Obligations.UnmatchedKeysFault : Prop :=
  (∀ key : Key, (∃ r, decodeKey key = .error r) ↔
    (9 < (keyK key).toNat ∨ (keyPhase key = .synchronized ∧ keyK key ≠ 0#4) ∨
      (keyFirst key = true ∧ (keyPhase key = .synchronized ∨ keyK key ≠ 0#4)) ∨
      4 < (keyCls key).toNat ∨
      (keyLevel key = .low ∧ keyFirst key = false ∧ keyK key = 0#4 ∧
        (keyCls key = 2#3 ∨ keyCls key = 4#3 ∨ (keyPhase key = .unsynchronized ∧ keyCls key = 1#3))) ∨
      (keyK key ≠ 0#4 ∧ keyCls key = 3#3 ∧ keyLevel key = .high) ∨
      (keyK key ≠ 0#4 ∧ keyCls key = 0#3 ∧ (keyLevel key = .high ↔ (keyK key).toNat % 2 = 0)))) ∧
  ∀ (s : State) (T : Nat), Enabled s → PulseEnds s T →
    (dispatchKey s T = none → coreTurn s = .fault .unreachableKey) ∧
    ∀ (key : Key) (r : KeyReject), dispatchKey s T = some key → decodeKey key = .error r →
      coreTurn s = .fault .unreachableKey

/-- Words written out from R90 and B5 decode to the operations they stand for, and the unmatched words of B5 decode to
none. -/
def Obligations.KnownKeysDecode : Prop :=
  decodeTableWord 16 0x200 = some (.initBreak .ok) ∧
  decodeTableWord 16 0x208 = some (.idleU true .ok) ∧
  decodeTableWord 16 0x008 = some (.idleU false .ok) ∧
  decodeTableWord 16 0x000 = some .syncStart ∧
  decodeTableWord 16 0x043 = some (.breakU 4#4) ∧
  decodeTableWord 16 0x078 = some (.syncBit 7#4) ∧
  decodeTableWord 16 0x080 = some .syncPair ∧
  decodeTableWord 16 0x098 = some .syncDone ∧
  decodeTableWord 16 0x039 = some (.syncFailNarrow 3#4 .high) ∧
  decodeTableWord 16 0x01A = some (.syncFailWide 1#4 .high) ∧
  decodeTableWord 16 0x108 = some (.idleS .ok) ∧
  decodeTableWord 16 0x103 = some .breakS ∧
  decodeTableWord 16 0x101 = some .resync ∧
  decodeTableWord 16 0x100 = some .frame ∧
  decodeTableWord 16 0x0A0 = none ∧ decodeTableWord 16 0x110 = none ∧ decodeTableWord 16 0x005 = none ∧
  decodeTableWord 16 0x210 = none ∧ decodeTableWord 16 0x104 = none

/-- The dispatch key carries `first` in bit 9, `phase` in bit 8, `k` in bits 7 to 4, the level at the cursor in bit 3 and
the class in bits 2 to 0 (R88). -/
def Obligations.DispatchKeyLayout : Prop :=
  ∀ (s : State) (T : Nat) (key : Key), dispatchKey s T = some key →
    ∃ cls, classify s (s.chan.level s.pos) (T - s.pos) = some cls ∧
      key.toNat = 512 * (if s.first then 1 else 0) + 256 * (if s.phase = .synchronized then 1 else 0) +
        16 * s.k.toNat + 8 * (if s.chan.level s.pos = .high then 1 else 0) + cls.bits.toNat

/-- An event record whose fields fit in `W` bits packs into `16 + 3 W` bits, flags lowest, then value, start and end, and
unpacks to itself; serialised, byte `i` of the word is bits `8 i` to `8 i + 7` (R83). -/
def Obligations.EventRecordPacking : Prop :=
  ∀ (W : Nat) (e : Event), e.value < 2 ^ W → e.start < 2 ^ W → e.last < 2 ^ W →
    e.packed W < 2 ^ (16 + 3 * W) ∧ e.packed W % 2 ^ 16 = e.flags.toNat ∧
    e.packed W / 2 ^ 16 % 2 ^ W = e.value ∧ e.packed W / 2 ^ (16 + W) % 2 ^ W = e.start ∧
    e.packed W / 2 ^ (16 + 2 * W) = e.last ∧ Event.unpacked W (e.packed W) = e ∧
    ∀ i, 8 * i < 16 + 3 * W → ((e.bytes W).getD i 0).toNat = e.packed W / 2 ^ (8 * i) % 256

/-! ## The channel -/

/-- On a canonical channel the level is `L0` at `CAPTURE_START`, changes at every transition and nowhere else (R51, R52). -/
def Obligations.LevelChangesExactlyAtTransitions : Prop :=
  ∀ (start : Nat) (c : Channel), c.Wf start →
    c.level start = c.l0 ∧
    ∀ n, start < n → c.level n = if n ∈ c.edges then (c.level (n - 1)).flip else c.level (n - 1)

/-- `NextT(n)` is the least transition above `n`; it is undefined exactly where no supplied transition lies above `n`
(R53). -/
def Obligations.NextTransitionIsLeast : Prop :=
  ∀ (start : Nat) (c : Channel), c.Wf start → ∀ n,
    (∀ t, c.nextT n = some t ↔ (t ∈ c.edges ∧ n < t ∧ ∀ u ∈ c.edges, n < u → t ≤ u)) ∧
    (c.nextT n = none ↔ ∀ u ∈ c.edges, u ≤ n)

/-- The levels at two samples are equal exactly when the number of transitions crossed between them is even (R52, R54). -/
def Obligations.CrossedParityGivesLevel : Prop :=
  ∀ (c : Channel) (a b : Nat), a ≤ b →
    c.level b = if c.crossed a b % 2 = 0 then c.level a else (c.level a).flip

/-- Setting `FRAMING_ERROR` on one crossed transition or on two gives the same error for every trace (R186, C8). -/
def Obligations.FramingThresholdIsImmaterial : Prop :=
  ∀ (c : Channel) (a b : Nat), a ≤ b →
    framingError (c.level a) (c.level b) (c.crossed a b) =
      (decide (c.level a = .low) || decide (c.level b = .low) || decide (2 ≤ c.crossed a b))

/-! ## Bit timing -/

/-- The two predicates of R131 written out for each policy, for a reference of `r10` tenths of a sample and for one of `m`
provisional periods (R132). -/
def Obligations.TolerancePredicatesPerPolicy : Prop :=
  ∀ (cfg : CfgWord) (w r10 m prov : Nat),
    (cfg.getLsbD 0 = false →
      (isNarrow cfg w r10 = true ↔ 40 * w < 3 * r10) ∧ (isWide cfg w r10 = true ↔ 4 * w > r10) ∧
      (isNarrow cfg w (10 * m * prov) = true ↔ 4 * w < 3 * m * prov) ∧
      (isWide cfg w (10 * m * prov) = true ↔ 2 * w > 5 * m * prov)) ∧
    (cfg.getLsbD 0 = true →
      (isNarrow cfg w r10 = true ↔ 20 * w < r10) ∧ (isWide cfg w r10 = true ↔ 20 * w > 3 * r10) ∧
      (isNarrow cfg w (10 * m * prov) = true ↔ 2 * w < m * prov) ∧
      (isWide cfg w (10 * m * prov) = true ↔ 2 * w > 3 * m * prov))

/-- No width is both too narrow and too wide, and no synchronised pulse is both too narrow and a BREAK (R136, R182). -/
def Obligations.WidthFailuresExclude : Prop :=
  ∀ (cfg : CfgWord) (w r10 : Nat), isNarrow cfg w r10 = true →
    isWide cfg w r10 = false ∧ isLong r10 .low w = false

/-- The boundary table of R139: the last failing and the first passing width of each check at a reference of 100 samples,
for both policies. -/
def Obligations.BoundaryWidths : Prop :=
  (isNarrow 0#32 74 1000 = true ∧ isNarrow 0#32 75 1000 = false ∧ isNarrow 1#32 49 1000 = true ∧
    isNarrow 1#32 50 1000 = false) ∧
  (isWide 0#32 251 1000 = true ∧ isWide 0#32 250 1000 = false ∧ isWide 1#32 151 1000 = true ∧
    isWide 1#32 150 1000 = false) ∧
  (isNarrow 0#32 149 2000 = true ∧ isNarrow 0#32 150 2000 = false ∧ isNarrow 1#32 99 2000 = true ∧
    isNarrow 1#32 100 2000 = false) ∧
  (isWide 0#32 501 2000 = true ∧ isWide 0#32 500 2000 = false ∧ isWide 1#32 301 2000 = true ∧
    isWide 1#32 300 2000 = false) ∧
  isLong 1000 .low 1300 = false ∧ isLong 1000 .low 1301 = true

/-! ## Dispatch -/

/-- When the key at the cursor decodes to an operation, the engine's turn is that operation's meaning; a settled turn of the
core is taken off the list first (R110; the list of turns is log entry 8). -/
def Obligations.StepRunsSelectedOperation : Prop :=
  ∀ (s : State) (T : Nat) (key : Key) (i : Instr), Enabled s → PulseEnds s T →
    dispatchKey s T = some key → decode (.keyed key) = .ok i →
    (s.turns = [] → step s = exec i s) ∧
    ∀ rest, s.turns = .core :: rest → step s = exec i { s with turns := rest }

/-- Dispatch while synchronised: HIGH is IDLE.S; a LOW pulse is tested for BREAK first, then for narrowness, and only a
pulse that passes both is decoded (R111, R180). -/
def Obligations.SynchronisedDispatch : Prop :=
  ∀ (s : State) (T : Nat), Enabled s → PulseEnds s T → s.first = false → s.phase = .synchronized → s.k = 0#4 →
    (s.chan.level s.pos = .high → fetch s = .runs (.idleS .ok)) ∧
    (s.chan.level s.pos = .low → s.bp10 ≠ 0 → 10 * (T - s.pos) > 13 * s.bp10 → fetch s = .runs .breakS) ∧
    (s.chan.level s.pos = .low → ¬(s.bp10 ≠ 0 ∧ 10 * (T - s.pos) > 13 * s.bp10) →
      isNarrow s.cfg (T - s.pos) s.bp10 = true → fetch s = .runs .resync) ∧
    (s.chan.level s.pos = .low → ¬(s.bp10 ≠ 0 ∧ 10 * (T - s.pos) > 13 * s.bp10) →
      isNarrow s.cfg (T - s.pos) s.bp10 = false → fetch s = .runs .frame)

/-- Dispatch in Idle-wait: HIGH is IDLE.U whatever its width; LOW is INIT_BREAK at the first step whatever its width, and
later BREAK.U if it is longer than 13 bit periods of an earlier lock, else SYNC.START whatever its width (R111, R114, R134,
R152, R213). -/
def Obligations.IdleWaitDispatch : Prop :=
  ∀ (s : State) (T : Nat), Enabled s → PulseEnds s T → s.phase = .unsynchronized → s.k = 0#4 →
    (s.chan.level s.pos = .high → fetch s = .runs (.idleU s.first .ok)) ∧
    (s.chan.level s.pos = .low → s.first = true → fetch s = .runs (.initBreak .ok)) ∧
    (s.chan.level s.pos = .low → s.first = false → s.bp10 ≠ 0 → 10 * (T - s.pos) > 13 * s.bp10 →
      fetch s = .runs (.breakU 0#4)) ∧
    (s.chan.level s.pos = .low → s.first = false → ¬(s.bp10 ≠ 0 ∧ 10 * (T - s.pos) > 13 * s.bp10) →
      fetch s = .runs .syncStart)

/-- Dispatch at a pattern position `k` in 1 to 9: a long LOW is a BREAK; else the checks run in the order wrong level, too
narrow, too wide, against `prov` at positions 1 to 7 and `2 prov` at 8 and 9, and at position 9 the ceiling counts only with
`SYNC9_UPPER`; a pulse that passes is the pattern's next bit (R133, R136, R213). -/
def Obligations.TrainingDispatch : Prop :=
  ∀ (s : State) (T m : Nat), Enabled s → PulseEnds s T → s.first = false → s.phase = .unsynchronized →
    1 ≤ s.k.toNat → s.k.toNat ≤ 9 → m = (if s.k.toNat ≤ 7 then 1 else 2) →
    (s.chan.level s.pos = .low ∧ s.bp10 ≠ 0 ∧ 10 * (T - s.pos) > 13 * s.bp10 → fetch s = .runs (.breakU s.k)) ∧
    (¬(s.chan.level s.pos = .low ∧ s.bp10 ≠ 0 ∧ 10 * (T - s.pos) > 13 * s.bp10) →
      (s.chan.level s.pos ≠ (if s.k.toNat % 2 = 1 then .high else .low) →
        fetch s = .runs (.syncFailWrongLevel s.k (s.chan.level s.pos))) ∧
      (s.chan.level s.pos = (if s.k.toNat % 2 = 1 then .high else .low) →
        (isNarrow s.cfg (T - s.pos) (10 * m * s.prov) = true →
          fetch s = .runs (.syncFailNarrow s.k (s.chan.level s.pos))) ∧
        (isNarrow s.cfg (T - s.pos) (10 * m * s.prov) = false →
          isWide s.cfg (T - s.pos) (10 * m * s.prov) = true → (s.k.toNat ≤ 8 ∨ s.cfg.getLsbD 3 = true) →
          fetch s = .runs (.syncFailWide s.k (s.chan.level s.pos))) ∧
        (isNarrow s.cfg (T - s.pos) (10 * m * s.prov) = false →
          (isWide s.cfg (T - s.pos) (10 * m * s.prov) = false ∨ (s.k.toNat = 9 ∧ s.cfg.getLsbD 3 = false)) →
          fetch s = .runs (if s.k.toNat ≤ 7 then .syncBit s.k else if s.k.toNat = 8 then .syncPair else .syncDone))))

/-! ## The operations -/

/-- IDLE.U and IDLE.S report the pulse at the cursor as one IDLE event with value 0 and move to its end; nothing else
changes (R112, R113). -/
def Obligations.IdleReportsPulse : Prop :=
  ∀ (s : State) (T : Nat) (first : Bool) (cls : WidthClass), PulseEnds s T → s.fits T = true →
    s.sink.ready = true →
    let t : State := { s with
      pos := T
      first := false
      events := s.events ++ [{ start := s.pos, last := T - 1, flags := 0x0001#16, value := 0 }]
      sink := s.sink.accept }
    exec (.idleU first cls) s = .next t ∧ exec (.idleS cls) s = .next t

/-- INIT_BREAK, BREAK.U and BREAK.S report the LOW pulse as one BREAK event with value 0 and move to its end. INIT_BREAK
changes no other register, BREAK.U abandons a pattern, BREAK.S returns to Idle-wait; all keep the bit period (R114, R153,
R181). -/
def Obligations.BreakReportsPulse : Prop :=
  ∀ (s : State) (T : Nat) (cls : WidthClass) (k : BitVec 4), PulseEnds s T → s.fits T = true →
    s.sink.ready = true →
    let t : State := { s with
      pos := T
      first := false
      events := s.events ++ [{ start := s.pos, last := T - 1, flags := 0x0002#16, value := 0 }]
      sink := s.sink.accept }
    exec (.initBreak cls) s = .next t ∧
    exec (.breakU k) s = .next { t with k := 0#4 } ∧
    exec .breakS s = .next { t with k := 0#4, phase := .unsynchronized }

/-- SYNC.START records the pulse's start and width and goes to position 1 at its end (R152). -/
def Obligations.SyncStartOpensPattern : Prop :=
  ∀ (s : State) (T : Nat), PulseEnds s T → s.fits T = true →
    exec .syncStart s =
      .next { s with origin := s.pos, prov := T - s.pos, k := 1#4, pos := T, first := false }

/-- SYNC.BIT and SYNC.PAIR go to the next position at the end of the pulse and change nothing else (R154, R155). -/
def Obligations.SyncBitAndPairAdvance : Prop :=
  ∀ (s : State) (T : Nat), PulseEnds s T → s.fits T = true →
    (∀ k, s.k.toNat ≤ 14 → ∃ q : BitVec 4, q.toNat = s.k.toNat + 1 ∧
      exec (.syncBit k) s = .next { s with k := q, pos := T, first := false }) ∧
    exec .syncPair s = .next { s with k := 9#4, pos := T, first := false }

/-- SYNC.FAIL consumes the failing pulse and resets the position. Without `EMIT_DIAG` it emits nothing; with it, one event
over the whole attempt with the failing check's flag and the position as its value (R156). -/
def Obligations.SyncFailResetsPattern : Prop :=
  ∀ (s : State) (T : Nat) (k : BitVec 4) (level : Level), PulseEnds s T → s.fits T = true →
    let t : State := { s with k := 0#4, pos := T, first := false }
    (s.cfg.getLsbD 1 = false →
      exec (.syncFailNarrow k level) s = .next t ∧ exec (.syncFailWide k level) s = .next t ∧
      exec (.syncFailWrongLevel k level) s = .next t) ∧
    (s.cfg.getLsbD 1 = true → s.params.Legal → s.fits s.origin = true → s.sink.ready = true →
      let u (flag : FlagWord) : State := { t with
        events := s.events ++ [{ start := s.origin, last := T - 1, flags := flag, value := s.k.toNat }]
        sink := s.sink.accept }
      exec (.syncFailNarrow k level) s = .next (u 0x0020#16) ∧
      exec (.syncFailWide k level) s = .next (u 0x0040#16) ∧
      exec (.syncFailWrongLevel k level) s = .next (u 0x0010#16))

/-- SYNC.DONE locks `bp10 = pos - origin`, becomes synchronised and moves to the frame boundary or to the next edge if that
comes first; one SYNC event covers the pattern and carries the period (R157). -/
def Obligations.SyncDoneLocksPeriod : Prop :=
  ∀ (s : State) (T R : Nat), PulseEnds s T → s.origin < s.pos →
    R = min T (s.pos + (s.pos - s.origin) / 5) → s.fits R = true → s.sink.ready = true →
    exec .syncDone s = .next { s with
      bp10 := s.pos - s.origin
      phase := .synchronized
      k := 0#4
      pos := R
      first := false
      events := s.events ++ [{ start := s.origin, last := R - 1, flags := 0x0004#16, value := s.pos - s.origin }]
      sink := s.sink.accept }

/-- RESYNC returns to Idle-wait with the cursor and everything else unchanged, and emits nothing, in every configuration
(R182). -/
def Obligations.ResyncKeepsCursor : Prop :=
  ∀ (s : State) (T : Nat), PulseEnds s T →
    exec .resync s = .next { s with phase := .unsynchronized, k := 0#4, first := false }

/-- FRAME: the byte is read at the bit centres, the parity bit and the stop bits set the error flags, the cursor resumes at
`R`, and one event over the frame carries the byte; an error-free 0x55 is retagged SYNC under `RETAG_55` (R183, R184, R186 to
R188). -/
def Obligations.FrameDecodesByte : Prop :=
  ∀ (s : State) (T R : Nat) (byte : Byte) (ferr : Bool), PulseEnds s T → s.params.Legal → 1 ≤ s.bp10 →
    s.fits s.bp10 = true →
    let C : Nat → Nat := fun j => s.pos + (2 * j + 1) * s.bp10 / 20
    (∀ i, i < 8 → byte.getLsbD i = decide (s.chan.level (C (i + 1)) = .high)) →
    (ferr = true ↔ s.chan.level (C 10) = .low ∨ s.chan.level (C 11) = .low ∨ 1 ≤ s.chan.crossed (C 10) (C 11)) →
    FrameResumesAt s R →
    s.fits R = true → s.sink.ready = true →
    let perr : Bool := parityError byte (s.chan.level (C 9))
    let retag : Bool := s.cfg.getLsbD 2 && (byte == 0x55#8) && !perr && !ferr
    exec .frame s = .next { s with
      pos := R
      first := false
      events := s.events ++ [
        { start := s.pos
          last := R - 1
          flags := if retag then 0x0004#16 else
            0x0008#16 ||| (if perr then 0x0100#16 else 0#16) ||| (if ferr then 0x0080#16 else 0#16)
          value := if retag then s.bp10 else byte.toNat }]
      sink := s.sink.accept }

/-- The parity bit must be LOW when the byte has an even number of 1 bits and HIGH when it has an odd number (R185). -/
def Obligations.ParityErrorIsOddParity : Prop :=
  ∀ (byte : Byte) (parity : Level),
    parityError byte parity =
      (decide (parity = .high) ^^ byte.getLsbD 0 ^^ byte.getLsbD 1 ^^ byte.getLsbD 2 ^^ byte.getLsbD 3 ^^
        byte.getLsbD 4 ^^ byte.getLsbD 5 ^^ byte.getLsbD 6 ^^ byte.getLsbD 7)

/-- A pending cancellation halts the engine at its next turn, blocked or not, with no event and nothing else changed; a
halted engine takes no step (R27, R117). -/
def Obligations.CancellationHalts : Prop :=
  ∀ s : State,
    exec .halt s = .next { s with halted := true } ∧
    (s.halted = false → s.cancel = true → coreTurn s = .next { s with halted := true }) ∧
    (s.halted = true → coreTurn s = .next s)

/-! ## Where an operation waits or faults -/

/-- Every operation on a pulse blocks, and leaves no trace, where the channel has not supplied the pulse's end, and so does
the engine's turn (R53, R115). -/
def Obligations.UnsuppliedPulseBlocks : Prop :=
  ∀ (s : State) (i : Instr), s.params.captureStart ≤ s.pos → s.chan.nextT s.pos = none → i ≠ .halt →
    exec i s = .next s ∧ (Enabled s → coreTurn s = .next s)

/-- FRAME also blocks until the channel has supplied every sample up to `C(11)`, and then the end of a LOW stop 2 or every
sample up to `B12` (R183, X5). -/
def Obligations.UnsuppliedFrameBlocks : Prop :=
  ∀ s : State, s.params.captureStart ≤ s.pos →
    let C11 : Nat := s.pos + 23 * s.bp10 / 20
    let B12 : Nat := s.pos + 12 * s.bp10 / 10
    (s.chan.supplied C11 = false ∨
      (s.chan.level C11 = .low ∧ s.chan.nextT C11 = none) ∨
      (s.chan.level C11 = .high ∧ s.chan.supplied B12 = false)) →
    exec .frame s = .next s

/-- A sink that does not accept makes an emitting operation wait: its record is not dropped, and nothing changes. Each
operation waits exactly where everything that it stores and emits fits; where a value does not fit it faults, sink or no sink.
The operations are IDLE.U, IDLE.S, INIT_BREAK, BREAK.U, BREAK.S, SYNC.DONE, SYNC.FAIL under `EMIT_DIAG`, and FRAME, whose
resume point is `R` (R33, R238; that the fault comes before the wait is log entry 9, and a span below 0 is log entry 10). -/
def Obligations.UnreadySinkWaits : Prop :=
  ∀ (s : State) (T : Nat), PulseEnds s T → s.sink.ready = false →
    (∀ i : Instr, ((∃ first cls, i = .idleU first cls) ∨ (∃ cls, i = .idleS cls) ∨ (∃ cls, i = .initBreak cls) ∨
        (∃ k, i = .breakU k) ∨ i = .breakS) →
      (s.fits T = true → exec i s = .next s) ∧ (s.fits T = false → exec i s = .fault .indexOverflow)) ∧
    (∀ R, R = min T (s.pos + (s.pos - s.origin) / 5) →
      (s.origin < s.pos → s.fits R = true → exec .syncDone s = .next s) ∧
      (s.pos < s.origin ∨ s.fits R = false → exec .syncDone s = .fault .indexOverflow)) ∧
    (∀ i : Instr, ((∃ k l, i = .syncFailNarrow k l) ∨ (∃ k l, i = .syncFailWide k l) ∨
        (∃ k l, i = .syncFailWrongLevel k l)) → s.cfg.getLsbD 1 = true →
      (s.params.Legal → s.fits s.origin = true → s.fits T = true → exec i s = .next s) ∧
      (s.fits s.origin = false ∨ s.fits T = false → exec i s = .fault .indexOverflow)) ∧
    (∀ R, FrameResumesAt s R →
      (s.params.Legal → 1 ≤ s.bp10 → s.fits s.bp10 = true → s.fits R = true → exec .frame s = .next s) ∧
      (s.fits R = false → exec .frame s = .fault .indexOverflow))

/-- A stored or emitted index that does not fit in `SAMPLE_W` bits is `fault IndexOverflow`, with no effect: every operation
that moves the cursor to the end of the pulse faults where that end does not fit, SYNC.DONE and FRAME where the point they
resume at does not fit, and SYNC.DONE on a span below 0 (R33; the last is log entry 10). -/
def Obligations.CursorOverflowFaults : Prop :=
  ∀ (s : State) (T R : Nat) (i : Instr), PulseEnds s T →
    (s.fits T = false → i ≠ .syncDone → i ≠ .resync → i ≠ .frame → i ≠ .halt →
      exec i s = .fault .indexOverflow) ∧
    (s.fits R = false → R = min T (s.pos + (s.pos - s.origin) / 5) →
      exec .syncDone s = .fault .indexOverflow) ∧
    (s.pos < s.origin → exec .syncDone s = .fault .indexOverflow) ∧
    (s.fits R = false → FrameResumesAt s R → exec .frame s = .fault .indexOverflow)

/-! ## Frames -/

/-- What no operation changes: the latched configuration, the parameters, the inputs, and the level of every sample of the
channel; and `halted` changes only by HALT (R27, R29, R57). -/
def Obligations.OperationsKeepInputs : Prop :=
  ∀ (i : Instr) (s t : State), exec i s = .next t →
    t.cfg = s.cfg ∧ t.params = s.params ∧ t.cancel = s.cancel ∧ t.turns = s.turns ∧ t.chan = s.chan ∧
    (∀ n, t.chan.level n = s.chan.level n) ∧ (t.halted = s.halted ∨ (i = .halt ∧ t.halted = true))

/-- Which operations write which registers: only SYNC.DONE writes `bp10`, only SYNC.START writes `origin` and `prov`, only
SYNC.DONE sets `phase`, only BREAK.S and RESYNC clear it; IDLE.U, IDLE.S, INIT_BREAK, FRAME and HALT write neither `phase` nor
`k` (R21 to R25, R138). -/
def Obligations.OperationsWriteOnlyTheirRegisters : Prop :=
  ∀ (i : Instr) (s t : State), exec i s = .next t →
    (i ≠ .syncDone → t.bp10 = s.bp10) ∧
    (i ≠ .syncStart → t.origin = s.origin ∧ t.prov = s.prov) ∧
    (i ≠ .syncDone → i ≠ .breakS → i ≠ .resync → t.phase = s.phase) ∧
    (i = .syncDone → t = s ∨ t.phase = .synchronized) ∧
    (i = .breakS ∨ i = .resync → t = s ∨ t.phase = .unsynchronized) ∧
    (((∃ first cls, i = .idleU first cls) ∨ (∃ cls, i = .idleS cls) ∨ (∃ cls, i = .initBreak cls) ∨ i = .frame ∨
      i = .halt) → t.phase = s.phase ∧ t.k = s.k)

/-- The events of a step: IDLE.U, IDLE.S, INIT_BREAK, BREAK.U, BREAK.S, SYNC.DONE and FRAME emit exactly one when they
complete, SYNC.FAIL one with `EMIT_DIAG` and none without, the other operations none; older records stay as they are (R58,
R119). -/
def Obligations.EventsPerOperation : Prop :=
  ∀ (i : Instr) (s t : State), exec i s = .next t →
    ((i = .syncStart ∨ (∃ k, i = .syncBit k) ∨ i = .syncPair ∨ i = .resync ∨ i = .halt) →
      t.events = s.events) ∧
    (((∃ first cls, i = .idleU first cls) ∨ (∃ cls, i = .idleS cls) ∨ (∃ cls, i = .initBreak cls) ∨
      (∃ k, i = .breakU k) ∨ i = .breakS ∨ i = .syncDone ∨ i = .frame) →
      t = s ∨ ∃ e, t.events = s.events ++ [e]) ∧
    (((∃ k l, i = .syncFailNarrow k l) ∨ (∃ k l, i = .syncFailWide k l) ∨ (∃ k l, i = .syncFailWrongLevel k l)) →
      (s.cfg.getLsbD 1 = true → t = s ∨ ∃ e, t.events = s.events ++ [e]) ∧
      (s.cfg.getLsbD 1 = false → t.events = s.events))

/-! ## Reset and the host -/

/-- Reset with a legal configuration word puts every register at its reset value, whatever the state before, and emits
nothing; the run's event stream is empty and the inputs stay (R36, R230, R231; the stream and the inputs are log entry
7). -/
def Obligations.ResetWritesEveryRegister : Prop :=
  ∀ (s : State) (cfg : CfgWord) (l0 : Level), cfg.toNat < 16 → s.params.Legal →
    hostTurn (.reset cfg l0) s = .next
      { phase := .unsynchronized, k := 0#4, origin := 0, prov := 0, bp10 := 0, first := true, halted := false
        pos := s.params.captureStart, cfg := cfg, params := s.params
        chan := { l0 := l0, edges := [], supply := .through s.params.captureStart }
        events := [], sink := s.sink, cancel := s.cancel, turns := s.turns }

/-- Reset with a reserved configuration bit set is refused, and the engine takes no step (R87). -/
def Obligations.ReservedConfigurationRefused : Prop :=
  ∀ (s : State) (cfg : CfgWord) (l0 : Level), (∃ i, 4 ≤ i ∧ cfg.getLsbD i = true) →
    hostTurn (.reset cfg l0) s = .refused .cfgReserved

/-- The state after reset is the one R36 gives at the default parameters and the configuration word 0 (the level of the
line is log entry 4). -/
def Obligations.ResetStateValues : Prop :=
  State.reset.phase = .unsynchronized ∧ State.reset.k = 0#4 ∧ State.reset.origin = 0 ∧ State.reset.prov = 0 ∧
  State.reset.bp10 = 0 ∧ State.reset.first = true ∧ State.reset.halted = false ∧ State.reset.pos = 0 ∧
  State.reset.cfg = 0#32 ∧ State.reset.params.sampleW = 64 ∧ State.reset.params.captureStart = 0 ∧
  State.reset.params.rateHint = 0 ∧
  hostTurn (.reset 0#32 .high) State.reset = .next State.reset

/-- During a run a changed configuration input, a moved cursor and a changed supplied sample are refused; presenting the
latched configuration again, or the cursor where it is, changes nothing (R233, R234). -/
def Obligations.HostViolationsRefused : Prop :=
  ∀ (s : State) (rest : List Turn),
    (∀ cfg, s.turns = .host (.presentCfg cfg) :: rest → s.halted = false →
      (cfg ≠ s.cfg → step s = .refused .cfgChanged) ∧ (cfg = s.cfg → step s = .next { s with turns := rest })) ∧
    (∀ n, s.turns = .host (.moveCursor n) :: rest →
      (n ≠ s.pos → step s = .refused .cursorMoved) ∧ (n = s.pos → step s = .next { s with turns := rest })) ∧
    (∀ n, s.turns = .host (.alterSample n) :: rest → s.params.captureStart ≤ n → s.chan.supplied n = true →
      step s = .refused .cursorMoved) ∧
    (∀ t, s.turns = .host (.supplyEdge t) :: rest → s.chan.supplied t = true → t ∉ s.chan.edges →
      step s = .refused .cursorMoved)

/-- What the host supplies or drives changes no register and no supplied sample, and keeps the channel canonical (R51, R67).
The statement covers every turn of the host but reset. -/
def Obligations.HostTurnsKeepRegisters : Prop :=
  ∀ (s t : State) (a : HostAction), hostTurn a s = .next t → (∀ cfg l0, a ≠ .reset cfg l0) →
    t = { s with chan := t.chan, sink := t.sink, cancel := t.cancel } ∧
    (s.chan.Wf s.params.captureStart → t.chan.Wf s.params.captureStart) ∧
    ∀ n, s.chan.supplied n = true → t.chan.supplied n = true ∧ t.chan.level n = s.chan.level n

/-! ## Whole-machine rules -/

/-- The invariant holds after reset (R34, R36). -/
def Obligations.ResetMeetsInvariants : Prop :=
  EngineInvariant State.reset ∧ StreamInvariant State.reset

/-- Every step keeps the engine's invariant, which contains all of R34; the host's turns are steps too. -/
def Obligations.StepKeepsEngineInvariant : Prop :=
  ∀ s t : State, EngineInvariant s → step s = .next t → EngineInvariant t

/-- Every step keeps the event stream in order: ranges do not overlap, starts rise, and every record is well formed (R58,
R59, R82, R85). -/
def Obligations.StepKeepsStreamInvariant : Prop :=
  ∀ s t : State, EngineInvariant s → StreamInvariant s → step s = .next t → StreamInvariant t

/-- With diagnostics on, the events tile the capture up to the samples in progress, unless a BREAK abandons a pattern: every
turn of the engine keeps the tiling (R60). -/
def Obligations.EventsTileTheCapture : Prop :=
  ∀ s t : State, EngineInvariant s → s.cfg.getLsbD 1 = true →
    Tiles s.params.captureStart s.events s.mark →
    (∀ k, fetch s = .runs (.breakU k) → s.k = 0#4) →
    coreTurn s = .next t → Tiles t.params.captureStart t.events t.mark

/-- No data makes the engine stop: from a state that meets the invariant its turn is refused never and faults only with
`IndexOverflow`; in particular every key matches a row (R90, R91, R211). -/
def Obligations.DataNeverStopsTheEngine : Prop :=
  ∀ s : State, EngineInvariant s →
    (∃ t, coreTurn s = .next t) ∨ coreTurn s = .fault .indexOverflow

/-- The WRONG_LEVEL class never fires from a state that meets the invariant (R160). -/
def Obligations.WrongLevelUnreachable : Prop :=
  ∀ (s : State) (k : BitVec 4) (level : Level), EngineInvariant s → fetch s ≠ .runs (.syncFailWrongLevel k level)

/-- Progress: a turn of the engine that changes the state halts, or leaves the cursor strictly greater, or is RESYNC, which
changes only the phase and after which the engine selects SYNC.START on the same pulse (R28, R116). -/
def Obligations.EveryTurnProgresses : Prop :=
  ∀ s t : State, EngineInvariant s → coreTurn s = .next t → t ≠ s →
    t = { s with halted := true } ∨ s.pos < t.pos ∨
    (fetch s = .runs .resync ∧ t = { s with phase := .unsynchronized } ∧ fetch t = .runs .syncStart)

/-- The pace of the channel does not matter: a turn that completes or faults on what is supplied does the same when more is
supplied (R51, R115; that the state holds the supplied part of the trace is log entry 1). -/
def Obligations.MoreSupplyChangesNothing : Prop :=
  ∀ (s : State) (d : Channel), EngineInvariant s → Extends s.chan d →
    (∀ t, coreTurn s = .next t → t ≠ s → coreTurn { s with chan := d } = .next { t with chan := d }) ∧
    ∀ r, coreTurn s = .fault r → coreTurn { s with chan := d } = .fault r

/-- `origin` and `prov` are unobservable while no pattern is in progress: two states that differ only there step to states
that differ only there, with the same events, or stop alike (R35). -/
def Obligations.DeadRegistersAreUnobservable : Prop :=
  ∀ s t : State, SameButDead s t →
    (∃ s' t', step s = .next s' ∧ step t = .next t' ∧ SameButDead s' t') ∨
    (∃ r, step s = .fault r ∧ step t = .fault r) ∨
    (∃ r, step s = .refused r ∧ step t = .refused r)

/-- The rate hint and the channel identifier are read by no rule: with other values of them every step does the same
(R7, D14). -/
def Obligations.HintsAreNeverRead : Prop :=
  ∀ (s : State) (rateHint channelId : Nat),
    step (s.withHints rateHint channelId) = mapNext (fun t => t.withHints rateHint channelId) (step s)

/-- The frame read at absolute positions is the frame read by walking the cursor from bit centre to bit centre, the two
forms in which R183 gives it. -/
def Obligations.FrameWalkAgrees : Prop :=
  ∀ (c : Channel) (s0 b : Nat), walkFrame c s0 b = readFrame c s0 b

/-- Round trip of a frame: if each of the twelve bit intervals of `P` samples carries one level, a start bit, the bits of a
byte least significant first, a parity bit and two HIGH stop bits, FRAME reports exactly that byte over exactly the twelve
bits, with `PARITY_ERROR` exactly when the parity bit is wrong (R2, R184 to R188; A2, A4). This is the case of a period of whole
samples with `RETAG_55 = 0`; `FrameDecodesByte` covers the others. -/
def Obligations.FrameRoundTrip : Prop :=
  ∀ (s : State) (T P : Nat) (byte : Byte) (bit : Nat → Level), PulseEnds s T → s.params.Legal →
    s.chan.Wf s.params.captureStart → 1 ≤ P → s.bp10 = 10 * P → s.cfg.getLsbD 2 = false →
    (∀ j n, j < 12 → s.pos + j * P ≤ n → n < s.pos + (j + 1) * P → s.chan.level n = bit j) →
    bit 0 = .low → (∀ i, i < 8 → bit (i + 1) = if byte.getLsbD i then .high else .low) →
    bit 10 = .high → bit 11 = .high →
    s.chan.supplied (s.pos + 12 * P) = true → s.fits (s.pos + 12 * P) = true → s.sink.ready = true →
    exec .frame s = .next { s with
      pos := s.pos + 12 * P
      first := false
      events := s.events ++ [
        { start := s.pos
          last := s.pos + 12 * P - 1
          flags := if bit 9 = (if popcount byte % 2 = 1 then .high else .low) then 0x0008#16 else 0x0108#16
          value := byte.toNat }]
      sink := s.sink.accept }

/-- A SYNC pattern locks its own rate: from Idle-wait at the falling edge of ten pulses, nine of widths `ws` and a HIGH of
width `w9`, each within tolerance of the first (of twice the first at positions 8 and 9), no LOW one longer than 13 bit periods
of an earlier lock (a HIGH one may be), ten steps emit
exactly one event, the SYNC event with the exact sum of the nine widths as period, and leave the engine synchronised at it
(R150, R157, R158, R161; A1). -/
def Obligations.SyncPatternLocks : Prop :=
  ∀ (s : State) (before after ws : List Nat) (w9 R : Nat), EngineInvariant s → Enabled s → s.turns = [] →
    s.phase = .unsynchronized → s.k = 0#4 → s.first = false → s.chan.level s.pos = .low →
    s.chan.edges = before ++ pulseEnds s.pos (ws ++ [w9]) ++ after → (∀ t ∈ before, t ≤ s.pos) →
    ws.length = 9 → (∀ w ∈ ws, 1 ≤ w) → 1 ≤ w9 →
    (∀ i, i ≤ 8 → i % 2 = 0 → s.bp10 = 0 ∨ 10 * ws.getD i 0 ≤ 13 * s.bp10) →
    (∀ i, 1 ≤ i → i ≤ 7 → isNarrow s.cfg (ws.getD i 0) (10 * ws.getD 0 0) = false ∧
      isWide s.cfg (ws.getD i 0) (10 * ws.getD 0 0) = false) →
    isNarrow s.cfg (ws.getD 8 0) (20 * ws.getD 0 0) = false →
    isWide s.cfg (ws.getD 8 0) (20 * ws.getD 0 0) = false →
    isNarrow s.cfg w9 (20 * ws.getD 0 0) = false →
    (s.cfg.getLsbD 3 = true → isWide s.cfg w9 (20 * ws.getD 0 0) = false) →
    s.fits (s.pos + ws.sum + w9) = true → s.sink.ready = true →
    R = min (s.pos + ws.sum + w9) (s.pos + ws.sum + ws.sum / 5) →
    Host.Core.run Sys2Proof.core 10 s = .next { s with
      phase := .synchronized
      origin := s.pos
      prov := ws.getD 0 0
      bp10 := ws.sum
      pos := R
      events := s.events ++ [{ start := s.pos, last := R - 1, flags := 0x0004#16, value := ws.sum }]
      sink := s.sink.accept }

/-- What the host supplies arrives: a transition supplied at an unsupplied sample `t` is the channel's next one, the samples
through `t` are supplied, and a cursor that waited below `t` for a transition has it; quiet samples are supplied without a
transition; and supplying the rest supplies every sample. Supplying again what is supplied changes nothing, and the `cancel`
input and the sink take the value that the host gives them (R51, R53, R54, R67; the turns are log entry 8, and that `cancel`
can be withdrawn is log entry 16). -/
def Obligations.HostSupplyArrives : Prop :=
  ∀ s : State,
    (∀ t, s.chan.supplied t = false → ∃ c : Channel,
      hostTurn (.supplyEdge t) s = .next { s with chan := c } ∧ c.l0 = s.chan.l0 ∧ c.edges = s.chan.edges ++ [t] ∧
      (∀ n, c.supplied n = true ↔ n ≤ t) ∧
      (s.chan.nextT s.pos = none → s.pos < t → c.nextT s.pos = some t)) ∧
    (∀ n, s.chan.supplied n = false → ∃ c : Channel,
      hostTurn (.supplyQuiet n) s = .next { s with chan := c } ∧ c.l0 = s.chan.l0 ∧ c.edges = s.chan.edges ∧
      ∀ m, c.supplied m = true ↔ m ≤ n) ∧
    (∃ c : Channel, hostTurn .supplyRest s = .next { s with chan := c } ∧ c.l0 = s.chan.l0 ∧
      c.edges = s.chan.edges ∧ ∀ m, c.supplied m = true) ∧
    (∀ t, s.chan.supplied t = true → hostTurn (.supplyQuiet t) s = .next s ∧
      (t ∈ s.chan.edges → hostTurn (.supplyEdge t) s = .next s)) ∧
    (∀ on, hostTurn (.setCancel on) s = .next { s with cancel := on }) ∧
    ∀ sink, hostTurn (.setSink sink) s = .next { s with sink := sink }
end

