-- ==== Sys2Proof/Laws/Channel.lean ====
section
/-! SUPPORT. The channel: what its primitives answer, and that every operation on it keeps its canonical form. -/

namespace Sys2Proof.Machine

/-- What is supplied is supplied from the start on. -/
theorem Channel.supplied_of_le {c : Channel} {m n : Nat} (h : m ≤ n) (hn : c.supplied n = true) :
    c.supplied m = true := by
  unfold Channel.supplied at *
  cases hs : c.supply with
  | all => rfl
  | through b => simp [hs] at *; omega

/-- A supplied sample lies below every sample that is not supplied. -/
theorem Channel.lt_of_unsupplied {c : Channel} {m n : Nat} (hm : c.supplied m = true) (hn : c.supplied n = false) :
    m < n := by
  by_contra h
  rw [Channel.supplied_of_le (Nat.le_of_not_lt h) hm] at hn
  cases hn

/-- The next transition lies above the sample asked about. -/
theorem Channel.lt_nextT {c : Channel} {n t : Nat} (h : c.nextT n = some t) : n < t := by
  simpa using List.find?_some h

/-- The next transition is one of the channel's transitions. -/
theorem Channel.nextT_mem {c : Channel} {n t : Nat} (h : c.nextT n = some t) : t ∈ c.edges :=
  List.mem_of_find?_eq_some h

/-- The next transition of a canonical channel is supplied. -/
theorem Channel.nextT_supplied {c : Channel} {start n t : Nat} (hw : c.Wf start) (h : c.nextT n = some t) :
    c.supplied t = true :=
  (hw.2.1 t (Channel.nextT_mem h)).2

/-- The transitions up to `b` are those up to `a` and those crossed from `a` to `b`. -/
theorem Channel.count_split (c : Channel) {a b : Nat} (h : a ≤ b) :
    c.edges.countP (fun t => decide (t ≤ b)) = c.edges.countP (fun t => decide (t ≤ a)) + c.crossed a b := by
  unfold Channel.crossed
  induction c.edges with
  | nil => rfl
  | cons x xs ih =>
    simp only [List.countP_cons, ih, decide_eq_true_eq]
    split <;> split <;> split <;> omega

/-- A transition that is supplied later leaves the level of every earlier sample as it is. -/
theorem Channel.level_append {c : Channel} {t n : Nat} (s : Supply) (h : n < t) :
    Channel.level { c with edges := c.edges ++ [t], supply := s } n = c.level n := by
  have : ¬ t ≤ n := by omega
  simp [Channel.level, List.countP_append, this]

/-- The channel right after reset is canonical. -/
theorem Channel.wf_restarted (l0 : Level) (start : Nat) :
    Channel.Wf start { l0 := l0, edges := [], supply := .through start } := by
  exact ⟨List.Pairwise.nil, by simp, by simp [Channel.supplied]⟩

/-- Supplying a transition above everything supplied keeps the canonical form. -/
theorem Channel.wf_supplyEdge {c : Channel} {start t : Nat} (hw : c.Wf start) (ht : c.supplied t = false) :
    Channel.Wf start { c with edges := c.edges ++ [t], supply := .through t } := by
  obtain ⟨hp, he, hs⟩ := hw
  have above : ∀ u ∈ c.edges, u < t := fun u hu => Channel.lt_of_unsupplied (he u hu).2 ht
  have hst := Channel.lt_of_unsupplied hs ht
  refine ⟨List.pairwise_append.2 ⟨hp, List.pairwise_singleton _ _, ?_⟩, ?_, ?_⟩
  · intro u hu v hv
    rw [List.mem_singleton.1 hv]
    exact above u hu
  · intro u hu
    rcases List.mem_append.1 hu with hu | hu
    · exact ⟨(he u hu).1, by simpa [Channel.supplied] using Nat.le_of_lt (above u hu)⟩
    · rw [List.mem_singleton.1 hu]
      exact ⟨hst, by simp [Channel.supplied]⟩
  · simpa [Channel.supplied] using Nat.le_of_lt hst

/-- Supplying samples without a transition keeps the canonical form. -/
theorem Channel.wf_supplyQuiet {c : Channel} {start n : Nat} (hw : c.Wf start) (hn : c.supplied n = false) :
    Channel.Wf start { c with supply := .through n } := by
  obtain ⟨hp, he, hs⟩ := hw
  refine ⟨hp, fun u hu => ⟨(he u hu).1, ?_⟩, ?_⟩
  · simpa [Channel.supplied] using Nat.le_of_lt (Channel.lt_of_unsupplied (he u hu).2 hn)
  · simpa [Channel.supplied] using Nat.le_of_lt (Channel.lt_of_unsupplied hs hn)

/-- Supplying the rest of the capture keeps the canonical form. -/
theorem Channel.wf_supplyRest {c : Channel} {start : Nat} (hw : c.Wf start) :
    Channel.Wf start { c with supply := .all } := by
  obtain ⟨hp, he, -⟩ := hw
  exact ⟨hp, fun u hu => ⟨(he u hu).1, rfl⟩, rfl⟩

/-- The state's channel is canonical. -/
abbrev State.ChanWf (s : State) : Prop := s.chan.Wf s.params.captureStart

/-- What a host's supply of a transition answers with. -/
theorem supplyEdge_cases {t : Nat} {s s' : State} (h : supplyEdge t s = .next s') :
    s' = s ∨ (s.chan.supplied t = false ∧
      s' = { s with chan := { s.chan with edges := s.chan.edges ++ [t], supply := .through t } }) := by
  unfold supplyEdge at h
  split at h
  · split at h
    · exact .inl (by simpa using h.symm)
    · cases h
  · rename_i hn
    exact .inr ⟨by simpa using hn, by simpa using h.symm⟩

/-- What a host's supply of samples without a transition answers with. -/
theorem supplyQuiet_cases {n : Nat} {s s' : State} (h : supplyQuiet n s = .next s') :
    s' = s ∨ (s.chan.supplied n = false ∧ s' = { s with chan := { s.chan with supply := .through n } }) := by
  unfold supplyQuiet at h
  split at h
  · exact .inl (by simpa using h.symm)
  · rename_i hn
    exact .inr ⟨by simpa using hn, by simpa using h.symm⟩

/-- What reset answers with. -/
theorem resetOp_cases {cfg : CfgWord} {l0 : Level} {s s' : State} (h : resetOp cfg l0 s = .next s') :
    cfgLegal cfg = true ∧ s.fits s.params.captureStart = true ∧ s' = s.restarted cfg l0 := by
  unfold resetOp at h
  split at h
  · split at h
    · exact ⟨‹_›, ‹_›, by simpa using h.symm⟩
    · cases h
  · cases h

/-- A turn of the host that supplies the channel or drives an input keeps the canonical form. -/
theorem supplyEdge_keeps_wf {t : Nat} {s s' : State} (hw : s.ChanWf) (h : supplyEdge t s = .next s') : s'.ChanWf := by
  obtain rfl | ⟨hn, rfl⟩ := supplyEdge_cases h
  · exact hw
  · exact Channel.wf_supplyEdge hw hn

/-- Supplying samples without a transition keeps the canonical form of the state's channel. -/
theorem supplyQuiet_keeps_wf {n : Nat} {s s' : State} (hw : s.ChanWf) (h : supplyQuiet n s = .next s') : s'.ChanWf := by
  obtain rfl | ⟨hn, rfl⟩ := supplyQuiet_cases h
  · exact hw
  · exact Channel.wf_supplyQuiet hw hn

/-- Reset gives a canonical channel. -/
theorem resetOp_gives_wf {cfg : CfgWord} {l0 : Level} {s s' : State} (h : resetOp cfg l0 s = .next s') : s'.ChanWf := by
  obtain ⟨-, -, rfl⟩ := resetOp_cases h
  exact Channel.wf_restarted l0 _

end Sys2Proof.Machine
end

