-- ==== Sys2Proof/Laws/State.lean ====
section
/-! SUPPORT. The fields of a state after each named update, and how the readers of a state see those updates. -/

namespace Sys2Proof.Machine

variable (s : State) (e : Event)

@[simp] theorem State.stepped_phase : s.stepped.phase = s.phase := rfl
@[simp] theorem State.stepped_k : s.stepped.k = s.k := rfl
@[simp] theorem State.stepped_origin : s.stepped.origin = s.origin := rfl
@[simp] theorem State.stepped_prov : s.stepped.prov = s.prov := rfl
@[simp] theorem State.stepped_bp10 : s.stepped.bp10 = s.bp10 := rfl
@[simp] theorem State.stepped_first : s.stepped.first = false := rfl
@[simp] theorem State.stepped_halted : s.stepped.halted = s.halted := rfl
@[simp] theorem State.stepped_pos : s.stepped.pos = s.pos := rfl
@[simp] theorem State.stepped_cfg : s.stepped.cfg = s.cfg := rfl
@[simp] theorem State.stepped_params : s.stepped.params = s.params := rfl
@[simp] theorem State.stepped_chan : s.stepped.chan = s.chan := rfl
@[simp] theorem State.stepped_events : s.stepped.events = s.events := rfl
@[simp] theorem State.stepped_sink : s.stepped.sink = s.sink := rfl
@[simp] theorem State.stepped_cancel : s.stepped.cancel = s.cancel := rfl
@[simp] theorem State.stepped_turns : s.stepped.turns = s.turns := rfl

@[simp] theorem State.emitted_phase : (s.emitted e).phase = s.phase := rfl
@[simp] theorem State.emitted_k : (s.emitted e).k = s.k := rfl
@[simp] theorem State.emitted_origin : (s.emitted e).origin = s.origin := rfl
@[simp] theorem State.emitted_prov : (s.emitted e).prov = s.prov := rfl
@[simp] theorem State.emitted_bp10 : (s.emitted e).bp10 = s.bp10 := rfl
@[simp] theorem State.emitted_first : (s.emitted e).first = s.first := rfl
@[simp] theorem State.emitted_halted : (s.emitted e).halted = s.halted := rfl
@[simp] theorem State.emitted_pos : (s.emitted e).pos = s.pos := rfl
@[simp] theorem State.emitted_cfg : (s.emitted e).cfg = s.cfg := rfl
@[simp] theorem State.emitted_params : (s.emitted e).params = s.params := rfl
@[simp] theorem State.emitted_chan : (s.emitted e).chan = s.chan := rfl
@[simp] theorem State.emitted_events : (s.emitted e).events = s.events ++ [e] := rfl
@[simp] theorem State.emitted_sink : (s.emitted e).sink = s.sink.accept := rfl
@[simp] theorem State.emitted_cancel : (s.emitted e).cancel = s.cancel := rfl
@[simp] theorem State.emitted_turns : (s.emitted e).turns = s.turns := rfl

variable (cfg : CfgWord) (l0 : Level)

@[simp] theorem State.restarted_phase : (s.restarted cfg l0).phase = .unsynchronized := rfl
@[simp] theorem State.restarted_k : (s.restarted cfg l0).k = 0#4 := rfl
@[simp] theorem State.restarted_origin : (s.restarted cfg l0).origin = 0 := rfl
@[simp] theorem State.restarted_prov : (s.restarted cfg l0).prov = 0 := rfl
@[simp] theorem State.restarted_bp10 : (s.restarted cfg l0).bp10 = 0 := rfl
@[simp] theorem State.restarted_first : (s.restarted cfg l0).first = true := rfl
@[simp] theorem State.restarted_halted : (s.restarted cfg l0).halted = false := rfl
@[simp] theorem State.restarted_pos : (s.restarted cfg l0).pos = s.params.captureStart := rfl
@[simp] theorem State.restarted_cfg : (s.restarted cfg l0).cfg = cfg := rfl
@[simp] theorem State.restarted_params : (s.restarted cfg l0).params = s.params := rfl
@[simp] theorem State.restarted_chan :
    (s.restarted cfg l0).chan = { l0 := l0, edges := [], supply := .through s.params.captureStart } := rfl
@[simp] theorem State.restarted_events : (s.restarted cfg l0).events = [] := rfl
@[simp] theorem State.restarted_sink : (s.restarted cfg l0).sink = s.sink := rfl
@[simp] theorem State.restarted_cancel : (s.restarted cfg l0).cancel = s.cancel := rfl
@[simp] theorem State.restarted_turns : (s.restarted cfg l0).turns = s.turns := rfl

@[simp] theorem State.stepped_fits (v : Nat) : s.stepped.fits v = s.fits v := rfl
@[simp] theorem State.emitted_fits (v : Nat) : (s.emitted e).fits v = s.fits v := rfl
@[simp] theorem State.restarted_fits (v : Nat) : (s.restarted cfg l0).fits v = s.fits v := rfl

/-- Fitting in `SAMPLE_W` bits, as a bound. -/
theorem State.fits_iff (v : Nat) : s.fits v = true ↔ v < 2 ^ s.params.sampleW := by
  simp [State.fits]

/-- What is not above a value that fits fits too. -/
theorem State.fits_of_le {u v : Nat} (h : u ≤ v) (hv : s.fits v = true) : s.fits u = true := by
  rw [State.fits_iff] at *
  omega

end Sys2Proof.Machine
end

