-- ==== Sys2Proof/Laws/Ops.lean ====
section
/-! SUPPORT. Once for each shared operation: everything it can do when it answers a next state, and what it answers when its
conditions hold. Proofs about the operations cite these lemmas instead of unfolding the shared operations. -/

namespace Sys2Proof.Machine

/-- An operation on a pulse that goes on either blocked, unchanged, or ran its body on the end of the pulse. -/
theorem observe_cases {s t : State} {body : Nat → Result} (h : observe s body = .next t) :
    s.params.captureStart ≤ s.pos ∧
      ((s.chan.nextT s.pos = none ∧ t = s) ∨ ∃ T, s.chan.nextT s.pos = some T ∧ body T = .next t) := by
  unfold observe at h
  split at h
  · cases h
  · refine ⟨by omega, ?_⟩
    split at h
    · exact .inl ⟨‹_›, by simpa using h.symm⟩
    · exact .inr ⟨_, ‹_›, h⟩

/-- Where the pulse's end is supplied the body runs. -/
theorem observe_some {s : State} {T : Nat} {body : Nat → Result} (hp : s.params.captureStart ≤ s.pos)
    (hT : s.chan.nextT s.pos = some T) : observe s body = body T := by
  simp [observe, hT, Nat.not_lt.2 hp]

/-- Where the pulse's end is not supplied the operation blocks. -/
theorem observe_none {s : State} {body : Nat → Result} (hp : s.params.captureStart ≤ s.pos)
    (hT : s.chan.nextT s.pos = none) : observe s body = .next s := by
  simp [observe, hT, Nat.not_lt.2 hp]

/-- An operation without an event that goes on stored only values that fit. -/
theorem finish_cases {s s' t : State} {stored : List Nat} (h : finish s s' stored = .next t) :
    (∀ v ∈ stored, s.fits v = true) ∧ t = s'.stepped := by
  unfold finish at h
  split at h
  · rename_i hs
    exact ⟨by simpa [List.all_eq_true] using hs, by simpa using h.symm⟩
  · cases h

/-- An operation without an event completes when what it stores fits. -/
theorem finish_next {s s' : State} {stored : List Nat} (h : ∀ v ∈ stored, s.fits v = true) :
    finish s s' stored = .next s'.stepped := by
  have : stored.all s.fits = true := by simpa [List.all_eq_true] using h
  simp [finish, this]

/-- The record an operation emits, and why it is one. -/
theorem State.recordOf_cases {s : State} {start stop value : Nat} {flags : FlagWord} {e : Event}
    (h : s.recordOf start stop flags value = some e) :
    0 < stop ∧ s.fits start = true ∧ s.fits (stop - 1) = true ∧ s.fits value = true ∧
      e = { start := start, last := stop - 1, flags := flags, value := value } := by
  unfold State.recordOf at h
  split at h
  · rename_i hc
    exact ⟨hc.1, hc.2.1, hc.2.2.1, hc.2.2.2, by simpa using h.symm⟩
  · cases h

/-- Fields that fit make a record. -/
theorem State.recordOf_some {s : State} {start stop value : Nat} {flags : FlagWord} (h0 : 0 < stop)
    (h1 : s.fits start = true) (h2 : s.fits (stop - 1) = true) (h3 : s.fits value = true) :
    s.recordOf start stop flags value =
      some { start := start, last := stop - 1, flags := flags, value := value } := by
  simp [State.recordOf, h0, h1, h2, h3]

/-- An emitting operation that goes on either waited for the sink, unchanged, or emitted its record. -/
theorem finishEmit_cases {s s' t : State} {stored : List Nat} {start stop value : Nat} {flags : FlagWord}
    (h : finishEmit s s' stored start stop flags value = .next t) :
    (∀ v ∈ stored, s.fits v = true) ∧ 0 < stop ∧ s.fits start = true ∧ s.fits (stop - 1) = true ∧
      s.fits value = true ∧
      ((s.sink.ready = false ∧ t = s) ∨ (s.sink.ready = true ∧
        t = (s'.emitted { start := start, last := stop - 1, flags := flags, value := value }).stepped)) := by
  unfold finishEmit at h
  split at h
  · cases h
  · rename_i e he
    obtain ⟨h0, h1, h2, h3, rfl⟩ := State.recordOf_cases he
    split at h
    · rename_i hs
      refine ⟨by simpa [List.all_eq_true] using hs, h0, h1, h2, h3, ?_⟩
      split at h
      · exact .inr ⟨‹_›, by simpa using h.symm⟩
      · rename_i hr
        exact .inl ⟨by simpa using hr, by simpa using h.symm⟩
    · cases h

/-- An emitting operation completes when its values fit and the sink accepts. -/
theorem finishEmit_next {s s' : State} {stored : List Nat} {start stop value : Nat} {flags : FlagWord}
    (hs : ∀ v ∈ stored, s.fits v = true) (h0 : 0 < stop) (h1 : s.fits start = true) (h2 : s.fits (stop - 1) = true)
    (h3 : s.fits value = true) (hr : s.sink.ready = true) :
    finishEmit s s' stored start stop flags value =
      .next (s'.emitted { start := start, last := stop - 1, flags := flags, value := value }).stepped := by
  have : stored.all s.fits = true := by simpa [List.all_eq_true] using hs
  simp [finishEmit, State.recordOf_some h0 h1 h2 h3, this, hr]

/-- An emitting operation waits, unchanged, when its values fit and the sink does not accept. -/
theorem finishEmit_waits {s s' : State} {stored : List Nat} {start stop value : Nat} {flags : FlagWord}
    (hs : ∀ v ∈ stored, s.fits v = true) (h0 : 0 < stop) (h1 : s.fits start = true) (h2 : s.fits (stop - 1) = true)
    (h3 : s.fits value = true) (hr : s.sink.ready = false) :
    finishEmit s s' stored start stop flags value = .next s := by
  have : stored.all s.fits = true := by simpa [List.all_eq_true] using hs
  simp [finishEmit, State.recordOf_some h0 h1 h2 h3, this, hr]

/-- A stored value that does not fit faults. -/
theorem finishEmit_overflow {s s' : State} {stored : List Nat} {start stop value : Nat} {flags : FlagWord} {v : Nat}
    (hv : v ∈ stored) (hf : s.fits v = false) :
    finishEmit s s' stored start stop flags value = .fault .indexOverflow := by
  have : stored.all s.fits = false := List.all_eq_false.2 ⟨v, hv, by simp [hf]⟩
  unfold finishEmit
  split <;> simp [this]

/-- A record whose first sample does not fit faults. -/
theorem finishEmit_start_overflow {s s' : State} {stored : List Nat} {start stop value : Nat} {flags : FlagWord}
    (hf : s.fits start = false) : finishEmit s s' stored start stop flags value = .fault .indexOverflow := by
  simp [finishEmit, State.recordOf, hf]

/-- A stored value that does not fit faults. -/
theorem finish_overflow {s s' : State} {stored : List Nat} {v : Nat} (hv : v ∈ stored) (hf : s.fits v = false) :
    finish s s' stored = .fault .indexOverflow := by
  have : stored.all s.fits = false := List.all_eq_false.2 ⟨v, hv, by simp [hf]⟩
  simp [finish, this]

/-- An emitting operation goes on or faults with an overflow, and in no other way. -/
theorem finishEmit_total (s s' : State) (stored : List Nat) (start stop value : Nat) (flags : FlagWord) :
    (∃ t, finishEmit s s' stored start stop flags value = .next t) ∨
      finishEmit s s' stored start stop flags value = .fault .indexOverflow := by
  unfold finishEmit
  split
  · exact .inr rfl
  · split
    · split
      · exact .inl ⟨_, rfl⟩
      · exact .inl ⟨_, rfl⟩
    · exact .inr rfl

/-- An operation without an event goes on or faults with an overflow, and in no other way. -/
theorem finish_total (s s' : State) (stored : List Nat) :
    (∃ t, finish s s' stored = .next t) ∨ finish s s' stored = .fault .indexOverflow := by
  unfold finish
  split
  · exact .inl ⟨_, rfl⟩
  · exact .inr rfl

/-- An operation that reports its pulse and goes on either blocked or waited, unchanged, or emitted the pulse's record. -/
theorem reportPulse_cases {s s' t : State} {flags : FlagWord} (h : reportPulse s s' flags = .next t) :
    t = s ∨ ∃ T, s.chan.nextT s.pos = some T ∧ s.fits T = true ∧
      t = (State.emitted { s' with pos := T }
        { start := s.pos, last := T - 1, flags := flags, value := 0 }).stepped := by
  obtain ⟨-, ⟨-, rfl⟩ | ⟨T, hT, hb⟩⟩ := observe_cases h
  · exact .inl rfl
  · obtain ⟨hs, -, -, -, -, ⟨-, rfl⟩ | ⟨-, rfl⟩⟩ := finishEmit_cases hb
    · exact .inl rfl
    · exact .inr ⟨T, hT, hs T (by simp), rfl⟩

/-- A failed match that goes on either blocked or waited, unchanged, or reset the position, with its diagnostic event when
`EMIT_DIAG` is set. -/
theorem failPattern_cases {s t : State} {flag : FlagWord} (h : failPattern s flag = .next t) :
    t = s ∨ ∃ T, s.chan.nextT s.pos = some T ∧ s.fits T = true ∧
      ((cfgEmitDiag s.cfg = true ∧ s.fits s.origin = true ∧
        t = (State.emitted { s with k := 0#4, pos := T }
          { start := s.origin, last := T - 1, flags := flag, value := s.k.toNat }).stepped) ∨
      (cfgEmitDiag s.cfg = false ∧ t = State.stepped { s with k := 0#4, pos := T })) := by
  obtain ⟨-, ⟨-, rfl⟩ | ⟨T, hT, hb⟩⟩ := observe_cases h
  · exact .inl rfl
  · split at hb
    · rename_i hd
      obtain ⟨hs, -, ho, -, -, ⟨-, rfl⟩ | ⟨-, rfl⟩⟩ := finishEmit_cases hb
      · exact .inl rfl
      · exact .inr ⟨T, hT, hs T (by simp), .inl ⟨hd, ho, rfl⟩⟩
    · rename_i hd
      obtain ⟨hs, rfl⟩ := finish_cases hb
      exact .inr ⟨T, hT, hs T (by simp), .inr ⟨by simpa using hd, rfl⟩⟩

/-- SYNC.DONE that goes on either blocked or waited, unchanged, or locked the period. -/
theorem execSyncDone_cases {s t : State} (h : execSyncDone s = .next t) :
    t = s ∨ ∃ T, s.chan.nextT s.pos = some T ∧ s.origin ≤ s.pos ∧ s.fits (s.pos - s.origin) = true ∧
      s.fits (syncResume s.pos (s.pos - s.origin) T) = true ∧ 0 < syncResume s.pos (s.pos - s.origin) T ∧
      s.fits s.origin = true ∧
      t = (State.emitted
        { s with
          bp10 := s.pos - s.origin
          phase := .synchronized
          k := 0#4
          pos := syncResume s.pos (s.pos - s.origin) T }
        { start := s.origin, last := syncResume s.pos (s.pos - s.origin) T - 1, flags := flagSync,
          value := s.pos - s.origin }).stepped := by
  obtain ⟨-, ⟨-, rfl⟩ | ⟨T, hT, hb⟩⟩ := observe_cases h
  · exact .inl rfl
  · split at hb
    · cases hb
    · obtain ⟨hs, h0, ho, -, -, ⟨-, rfl⟩ | ⟨-, rfl⟩⟩ := finishEmit_cases hb
      · exact .inl rfl
      · exact .inr ⟨T, hT, by omega, hs _ (by simp), hs _ (by simp), h0, ho, rfl⟩

/-- FRAME that goes on either blocked or waited, unchanged, or emitted what it read. -/
theorem execFrame_cases {s t : State} (h : execFrame s = .next t) :
    t = s ∨ ∃ T f, s.chan.nextT s.pos = some T ∧ readFrame s.chan s.pos s.bp10 = some f ∧
      s.fits f.resume = true ∧ 0 < f.resume ∧ s.fits s.pos = true ∧ s.fits (frameValue s.cfg s.bp10 f) = true ∧
      t = (State.emitted { s with pos := f.resume }
        { start := s.pos, last := f.resume - 1, flags := frameFlags s.cfg f,
          value := frameValue s.cfg s.bp10 f }).stepped := by
  obtain ⟨-, ⟨-, rfl⟩ | ⟨T, hT, hb⟩⟩ := observe_cases h
  · exact .inl rfl
  · split at hb
    · exact .inl (by simpa using hb.symm)
    · rename_i f hf
      obtain ⟨hs, h0, hp, -, hv, ⟨-, rfl⟩ | ⟨-, rfl⟩⟩ := finishEmit_cases hb
      · exact .inl rfl
      · exact .inr ⟨T, f, hT, hf, hs _ (by simp), h0, hp, hv, rfl⟩

/-- What makes the engine run an operation other than HALT. -/
theorem fetch_runs {s : State} {i : Instr} (h : fetch s = .runs i) :
    (s.halted = false ∧ s.cancel = true ∧ i = .halt) ∨
      (s.halted = false ∧ s.cancel = false ∧ s.params.captureStart ≤ s.pos ∧ ∃ T key,
        s.chan.nextT s.pos = some T ∧ dispatchKey s T = some key ∧ decode (.keyed key) = .ok i) := by
  unfold fetch at h
  split at h
  · cases h
  · rename_i hh
    split at h
    · rename_i hc
      exact .inl ⟨by simpa using hh, hc, by simpa using h.symm⟩
    · rename_i hc
      split at h
      · cases h
      · split at h
        · cases h
        · rename_i T hT
          unfold selectKeyed at h
          split at h
          · cases h
          · rename_i key hk
            split at h
            · rename_i j hj
              refine .inr ⟨by simpa using hh, by simpa using hc, by omega, T, key, hT, hk, ?_⟩
              rw [hj]
              simpa using h
            · cases h

end Sys2Proof.Machine
end

