-- ==== Sys2Proof/Laws/PerInstr.lean ====
section
/-! SUPPORT. Statements about every operation as syntax, one lemma per constructor: the encoder puts each well-formed
operation into its row of the operation map (spec/30_encoding.md R90). -/

namespace Sys2Proof.Laws.EncodedRow

/-- The key of a well-formed operation has its row's fixed bits. -/
def Statement (i : Instr) : Prop :=
  i.wellFormed = true → ∀ key, encode i = .keyed key → rowMatch i = some (key &&& rowMask i)

theorem initBreak (cls : WidthClass) : Statement (.initBreak cls) := by
  rintro - key h; cases h; cases cls <;> decide

theorem idleU (first : Bool) (cls : WidthClass) : Statement (.idleU first cls) := by
  rintro - key h; cases h; cases first <;> cases cls <;> decide

theorem syncStart : Statement .syncStart := by
  rintro - key h; cases h; decide

theorem breakU (k : BitVec 4) : Statement (.breakU k) := by
  rintro - key h; cases h; revert k; decide

theorem syncBit (k : BitVec 4) : Statement (.syncBit k) := by
  rintro - key h; cases h; revert k; decide

theorem syncPair : Statement .syncPair := by
  rintro - key h; cases h; decide

theorem syncDone : Statement .syncDone := by
  rintro - key h; cases h; decide

theorem syncFailNarrow (k : BitVec 4) (level : Level) : Statement (.syncFailNarrow k level) := by
  rintro - key h; cases h; cases level <;> revert k <;> decide

theorem syncFailWide (k : BitVec 4) (level : Level) : Statement (.syncFailWide k level) := by
  rintro - key h; cases h; cases level <;> revert k <;> decide

theorem syncFailWrongLevel (k : BitVec 4) (level : Level) : Statement (.syncFailWrongLevel k level) := by
  rintro - key h; cases h; cases level <;> revert k <;> decide

theorem idleS (cls : WidthClass) : Statement (.idleS cls) := by
  rintro - key h; cases h; cases cls <;> decide

theorem breakS : Statement .breakS := by
  rintro - key h; cases h; decide

theorem resync : Statement .resync := by
  rintro - key h; cases h; decide

theorem frame : Statement .frame := by
  rintro - key h; cases h; decide

theorem halt : Statement .halt := by
  rintro - key h; cases h

end Sys2Proof.Laws.EncodedRow
end

