-- ==== Sys2Proof/Tests/Slice0.lean ====
section
/-! SUPPORT. The model's own tests. Expected values come from the tables of spec/30_encoding.md and the hand-derived vectors of
spec/95_test_vectors.md, whose row each test names. Below them, a witness for the hypotheses of every statement. -/

open Sys2Proof
open Sys2Proof.Machine

namespace Sys2Proof.Tests

/-! ## Builders -/

/-- A trace `@0` of pulses that begins with `l0`; no further transition ever occurs (R93). -/
def trace (l0 : Level) (ws : List Nat) : Channel := { l0 := l0, edges := pulseEnds 0 ws, supply := .all }

/-- A later step's state with the cursor at `pos`, where the pulses `ws` begin with one of level `l` (spec/95, Conventions). -/
def later (l : Level) (pos : Nat) (ws : List Nat) : State :=
  { State.reset with first := false, pos := pos, chan := trace l.flip (pos :: ws) }

/-- Synchronised at `bp10 = 1000`. -/
def synced (l : Level) (pos : Nat) (ws : List Nat) : State :=
  { later l pos ws with phase := .synchronized, bp10 := 1000 }

/-- At pattern position `k` with `prov = 100`. -/
def training (k : Nat) (origin pos : Nat) (l : Level) (ws : List Nat) : State :=
  { later l pos ws with k := BitVec.ofNat 4 k, origin := origin, prov := 100 }

/-- The next state of a result. -/
def nextOf : Result → Option State
  | .next t => some t
  | .fault _ => none
  | .refused _ => none

/-- The reason of a fault. -/
def faultOf : Result → Option Fault
  | .next _ => none
  | .fault r => some r
  | .refused _ => none

/-- The reason of a refusal. -/
def refusalOf : Result → Option Refusal
  | .next _ => none
  | .fault _ => none
  | .refused r => some r

/-- The records in the stream of the next state. -/
def eventsOf (r : Result) : Option (List Event) := (nextOf r).map State.events

/-- The registers `phase`, `k`, `bp10` and `pos` of the next state. -/
def regsOf (r : Result) : Option (Phase × Nat × Nat × Nat) :=
  (nextOf r).map fun t => (t.phase, t.k.toNat, t.bp10, t.pos)

/-! ## Well-formedness: each check refuses an ill-formed term -/

theorem test_wellFormed_breakU : (Instr.breakU 10#4).wellFormed = false ∧ (Instr.breakU 9#4).wellFormed = true := by
  decide

theorem test_wellFormed_syncBit :
    (Instr.syncBit 0#4).wellFormed = false ∧ (Instr.syncBit 8#4).wellFormed = false ∧
    (Instr.syncBit 7#4).wellFormed = true := by
  decide

theorem test_wellFormed_syncFail :
    (Instr.syncFailNarrow 0#4 .low).wellFormed = false ∧ (Instr.syncFailNarrow 10#4 .low).wellFormed = false ∧
    (Instr.syncFailWide 0#4 .low).wellFormed = false ∧ (Instr.syncFailWide 10#4 .low).wellFormed = false ∧
    (Instr.syncFailWrongLevel 0#4 .low).wellFormed = false ∧
    (Instr.syncFailWrongLevel 10#4 .low).wellFormed = false := by
  decide

/-! ## Decoding: words written out from R90, one for each operation -/

theorem test_decode_initBreak : decodeTableWord 16 0b1000000000 = some (.initBreak .ok) := by decide
theorem test_decode_idleU : decodeTableWord 16 0b0000001000 = some (.idleU false .ok) := by decide
theorem test_decode_idleU_first : decodeTableWord 16 0b1000001000 = some (.idleU true .ok) := by decide
theorem test_decode_syncStart : decodeTableWord 16 0b0000000000 = some .syncStart := by decide
theorem test_decode_breakU : decodeTableWord 16 0b0001000011 = some (.breakU 4#4) := by decide
theorem test_decode_syncBit : decodeTableWord 16 0b0001111000 = some (.syncBit 7#4) := by decide
theorem test_decode_syncBit_even : decodeTableWord 16 0b0001100000 = some (.syncBit 6#4) := by decide
theorem test_decode_syncPair : decodeTableWord 16 0b0010000000 = some .syncPair := by decide
theorem test_decode_syncDone : decodeTableWord 16 0b0010011000 = some .syncDone := by decide
theorem test_decode_syncFailNarrow : decodeTableWord 16 0b0000111001 = some (.syncFailNarrow 3#4 .high) := by decide
theorem test_decode_syncFailWide : decodeTableWord 16 0b0001000010 = some (.syncFailWide 4#4 .low) := by decide
theorem test_decode_syncFailWrongLevel :
    decodeTableWord 16 0b0000010100 = some (.syncFailWrongLevel 1#4 .low) := by decide
theorem test_decode_idleS : decodeTableWord 16 0b0100001000 = some (.idleS .ok) := by decide
theorem test_decode_breakS : decodeTableWord 16 0b0100000011 = some .breakS := by decide
theorem test_decode_resync : decodeTableWord 16 0b0100000001 = some .resync := by decide
theorem test_decode_frame : decodeTableWord 16 0b0100000000 = some .frame := by decide
theorem test_decode_halt : decodeTableWord 0 0 = some .halt := by decide

/-- B5's keys that match no row, and a word wider than a key. -/
theorem test_decode_unmatched :
    decodeTableWord 16 0x0A0 = none ∧ decodeTableWord 16 0x110 = none ∧ decodeTableWord 16 0x005 = none ∧
    decodeTableWord 16 0x210 = none ∧ decodeTableWord 16 0x104 = none ∧ decodeTableWord 16 0x400 = none := by
  decide

/-! ## One step of each operation (spec/95_test_vectors.md) -/

/-- E1. -/
theorem test_initBreak_E1 :
    let r := step { State.reset with chan := trace .low [40, 1000] }
    eventsOf r = some [⟨0, 39, 0x002#16, 0⟩] ∧ regsOf r = some (.unsynchronized, 0, 0, 40) := by
  decide

/-- E2, and A7 row 1: a HIGH pulse of one sample. -/
theorem test_idleU_E2_A7 :
    eventsOf (step { State.reset with chan := trace .high [40] }) = some [⟨0, 39, 0x001#16, 0⟩] ∧
    eventsOf (step { State.reset with first := false, chan := trace .high [1] }) = some [⟨0, 0, 0x001#16, 0⟩] := by
  decide

/-- E3. -/
theorem test_idleS_E3 :
    let r := step (synced .high 1700 [300])
    eventsOf r = some [⟨1700, 1999, 0x001#16, 0⟩] ∧ regsOf r = some (.synchronized, 0, 1000, 2000) := by
  decide

/-- S1 and S2. -/
theorem test_syncStart_S1_S2 :
    nextOf (step (later .low 500 [100])) =
      some { later .low 500 [100] with k := 1#4, origin := 500, prov := 100, pos := 600 } ∧
    nextOf (step (later .low 500 [1])) =
      some { later .low 500 [1] with k := 1#4, origin := 500, prov := 1, pos := 501 } := by
  decide

/-- A6 row 5: exactly 13 bit periods is no BREAK. -/
theorem test_syncStart_A6 :
    nextOf (step { later .low 500 [1300] with bp10 := 1000 }) =
      some { later .low 500 [1300] with bp10 := 1000, k := 1#4, origin := 500, prov := 1300, pos := 1800 } := by
  decide

/-- S3. -/
theorem test_breakU_S3 :
    let r := step { later .low 5000 [2000] with bp10 := 1000 }
    eventsOf r = some [⟨5000, 6999, 0x002#16, 0⟩] ∧ regsOf r = some (.unsynchronized, 0, 1000, 7000) := by
  decide

/-- S4: a BREAK inside a pattern emits no diagnostic. -/
theorem test_breakU_S4 :
    let r := step { training 4 4000 4300 .low [1301] with bp10 := 1000, cfg := 2#32 }
    eventsOf r = some [⟨4300, 5600, 0x002#16, 0⟩] ∧ regsOf r = some (.unsynchronized, 0, 1000, 5601) := by
  decide

/-- B1, `TOL_B`, position 1: 75 and 250 pass. -/
theorem test_syncBit_B1 :
    regsOf (step (training 1 500 1000 .high [75])) = some (.unsynchronized, 2, 0, 1075) ∧
    regsOf (step (training 1 500 1000 .high [250])) = some (.unsynchronized, 2, 0, 1250) := by
  decide

/-- B1, `TOL_A`, position 2: 50 and 150 pass. -/
theorem test_syncBit_B1_tolA :
    regsOf (step { training 2 500 1000 .low [50] with cfg := 3#32 }) = some (.unsynchronized, 3, 0, 1050) ∧
    regsOf (step { training 2 500 1000 .low [150] with cfg := 3#32 }) = some (.unsynchronized, 3, 0, 1150) := by
  decide

/-- B1, position 8: 150 and 500 pass. -/
theorem test_syncPair_B1 :
    regsOf (step (training 8 500 1000 .low [150])) = some (.unsynchronized, 9, 0, 1150) ∧
    regsOf (step (training 8 500 1000 .low [500])) = some (.unsynchronized, 9, 0, 1500) := by
  decide

/-- S8 and S9: the idle is longer, and shorter, than the stop bits. -/
theorem test_syncDone_S8_S9 :
    eventsOf (step (training 9 500 1500 .high [500])) = some [⟨500, 1699, 0x004#16, 1000⟩] ∧
    regsOf (step (training 9 500 1500 .high [500])) = some (.synchronized, 0, 1000, 1700) ∧
    eventsOf (step (training 9 500 1500 .high [150])) = some [⟨500, 1649, 0x004#16, 1000⟩] ∧
    regsOf (step (training 9 500 1500 .high [150])) = some (.synchronized, 0, 1000, 1650) := by
  decide

/-- S10: a period that is no whole number of samples. -/
theorem test_syncDone_S10 :
    let r := step (training 9 500 1507 .high [1000])
    eventsOf r = some [⟨500, 1707, 0x004#16, 1007⟩] ∧ regsOf r = some (.synchronized, 0, 1007, 1708) := by
  decide

/-- S6 and S7. -/
theorem test_syncFailNarrow_S6_S7 :
    eventsOf (step (training 1 500 600 .high [60])) = some [] ∧
    regsOf (step (training 1 500 600 .high [60])) = some (.unsynchronized, 0, 0, 660) ∧
    eventsOf (step { training 1 500 600 .high [60] with cfg := 2#32 }) = some [⟨500, 659, 0x020#16, 1⟩] := by
  decide

/-- B1, positions 2 and 9 (with `SYNC9_UPPER`): WIDE. -/
theorem test_syncFailWide_B1 :
    eventsOf (step { training 2 500 1000 .low [251] with cfg := 2#32 }) = some [⟨500, 1250, 0x040#16, 2⟩] ∧
    eventsOf (step { training 9 500 1000 .high [501] with cfg := 10#32 }) = some [⟨500, 1500, 0x040#16, 9⟩] ∧
    eventsOf (step { training 9 500 1000 .high [501] with cfg := 2#32 }) = some [⟨500, 1099, 0x004#16, 500⟩] := by
  decide

/-- S5: a LOW of exactly 13 bit periods inside a pattern is WIDE, no BREAK. -/
theorem test_syncFailWide_S5 :
    eventsOf (step { training 4 4000 4300 .low [1300] with bp10 := 1000, cfg := 2#32 }) =
      some [⟨4000, 5599, 0x040#16, 4⟩] := by
  decide

/-- R156 on a state that no run reaches: a LOW pulse at position 1. -/
theorem test_syncFailWrongLevel_R156 :
    eventsOf (step { training 1 500 600 .low [100] with cfg := 2#32 }) = some [⟨500, 699, 0x010#16, 1⟩] ∧
    regsOf (step (training 1 500 600 .low [100])) = some (.unsynchronized, 0, 0, 700) := by
  decide

/-- A6 row 2. -/
theorem test_breakS_A6 :
    let r := step (synced .low 2000 [1301])
    eventsOf r = some [⟨2000, 3300, 0x002#16, 0⟩] ∧ regsOf r = some (.unsynchronized, 0, 1000, 3301) := by
  decide

/-- F15, first of the two steps. -/
theorem test_resync_F15 :
    nextOf (step (synced .low 2000 [74])) = some { synced .low 2000 [74] with phase := .unsynchronized } := by
  decide

/-- F6: byte 0xA3; and A4: the same byte with its parity bit wrong. -/
theorem test_frame_F6_A4 :
    eventsOf (step (synced .low 2000 [100, 200, 300, 100, 100, 100, 100])) = some [⟨2000, 3199, 0x008#16, 0xA3⟩] ∧
    eventsOf (step (synced .low 2000 [100, 200, 300, 100, 100])) = some [⟨2000, 3199, 0x108#16, 0xA3⟩] := by
  decide

/-- F9 and F12: the retag, and stop 2 LOW from exactly `C(11)` on. -/
theorem test_frame_F9_F12 :
    eventsOf (step { synced .low 2000 [100, 100, 100, 100, 100, 100, 100, 100, 200] with cfg := 4#32 }) =
      some [⟨2000, 3199, 0x004#16, 1000⟩] ∧
    eventsOf (step (synced .low 2000 [100, 100, 500, 100, 200, 150, 100])) =
      some [⟨2000, 3249, 0x088#16, 0x41⟩] := by
  decide

/-- E5: a cancellation while blocked. -/
theorem test_halt_E5 :
    nextOf (step { synced .high 3200 [] with cancel := true }) =
      some { synced .high 3200 [] with cancel := true, halted := true } := by
  decide

/-! ## Waiting, faults and refusals (spec/95, B6), encodings (B5) -/

/-- X1: `IndexOverflow` at `2 ^ 32` with 32-bit indices. -/
def overflowing (l : Level) (pos : Nat) (ws : List Nat) : State :=
  { later l pos ws with params := { Params.default with sampleW := 32 } }

theorem test_overflow_X1 :
    faultOf (step (overflowing .high 4294967196 [100])) = some .indexOverflow ∧
    regsOf (step (overflowing .high 4294967196 [99])) = some (.unsynchronized, 0, 0, 4294967295) := by
  decide

/-- X2. -/
theorem test_reset_X2 :
    refusalOf (hostTurn (.reset 0x10#32 .high) State.reset) = some .cfgReserved ∧
    refusalOf (hostTurn (.reset 0x80000000#32 .high) State.reset) = some .cfgReserved ∧
    (nextOf (hostTurn (.reset 0xF#32 .low) State.reset)).map State.cfg = some 0xF#32 := by
  decide

/-- X3 and X4. -/
theorem test_host_X3_X4 :
    refusalOf (step { State.reset with turns := [.host (.presentCfg 1#32)] }) = some .cfgChanged ∧
    refusalOf (step { State.reset with turns := [.host (.moveCursor 5)] }) = some .cursorMoved := by
  decide

/-- X5: FRAME waits for the samples up to `B12`, and runs once they are supplied. -/
def partialFrame (n : Nat) : State :=
  let s := synced .low 2000 [100, 200, 300, 100, 100, 100, 100]
  { s with chan := { s.chan with supply := .through n } }

theorem test_frame_X5 :
    nextOf (step (partialFrame 3100)) = some (partialFrame 3100) ∧
    nextOf (step (partialFrame 3199)) = some (partialFrame 3199) ∧
    eventsOf (step (partialFrame 3200)) = some [⟨2000, 3199, 0x008#16, 0xA3⟩] := by
  decide

/-- X7: the core waits for the sink. -/
theorem test_sink_X7 :
    let s := { synced .high 1700 [300] with sink := .room 0 }
    nextOf (step s) = some s := by
  decide

/-- B5: the packed record `SYNC [500,1699] v=1000`, byte by byte. -/
theorem test_event_bytes_B5 :
    Event.bytes 64 ⟨500, 1699, 0x0004#16, 1000⟩ =
      [0x04, 0x00, 0xE8, 0x03, 0, 0, 0, 0, 0, 0, 0xF4, 0x01, 0, 0, 0, 0, 0, 0, 0xA3, 0x06, 0, 0, 0, 0, 0, 0] := by
  decide

/-- A placed word is the next operation: SYNC.PAIR from reset, and HALT for the word of no bits. -/
theorem test_withFetchWord :
    fetch (State.reset.withFetchWord 16 0x080) = .runs .syncPair ∧
    fetch (State.reset.withFetchWord 16 0x200) = .runs (.initBreak .ok) ∧
    fetch (State.reset.withFetchWord 0 0) = .runs .halt ∧
    regsOf (step (State.reset.withFetchWord 16 0x080)) = some (.unsynchronized, 9, 1000, 1200) := by
  decide

/-- From reset a program comes in by the host's supply: the first pulse of E2, then the core's step. -/
theorem test_supply_then_step :
    eventsOf (Host.Core.run Sys2Proof.core 2 { State.reset with turns := [.host (.supplyEdge 40)] }) =
      some [⟨0, 39, 0x001#16, 0⟩] := by
  decide

/-! ## Witnesses: states and operands that meet the hypotheses of each statement, clause by clause -/

theorem witness_decodeInvertsEncode :
    (Instr.syncFailWide 9#4 .high).wellFormed = true ∧ (Instr.breakU 0#4).wellFormed = true := by
  decide

theorem witness_encodeInvertsDecode : (decode (.keyed 0x043#10)).toOption = some (.breakU 4#4) := by decide

theorem witness_decodeFollowsOperationMap :
    WidthClass.ofBits (keyCls 0x203#10) = some .long ∧ 0x203#10 &&& 0x3F8#10 = 0x200#10 ∧
    0x20C#10 &&& 0x1F8#10 = 0x008#10 ∧ 0x10A#10 &&& 0x3F8#10 = 0x108#10 ∧
    WidthClass.ofBits (keyCls 0x000#10) = some .ok ∧ WidthClass.ofBits (keyCls 0x103#10) = some .long ∧
    WidthClass.ofBits (keyCls 0x101#10) = some .narrow := by
  decide

/-- One key for each of the seven kinds that match no row, and two in don't-care columns that do match (log entry 2). -/
theorem witness_unmatchedKeys_keys :
    9 < (keyK 0x0A3#10).toNat ∧ (keyPhase 0x110#10 = .synchronized ∧ keyK 0x110#10 ≠ 0#4) ∧
    (keyFirst 0x210#10 = true ∧ keyK 0x210#10 ≠ 0#4) ∧ 4 < (keyCls 0x005#10).toNat ∧
    (keyLevel 0x104#10 = .low ∧ keyFirst 0x104#10 = false ∧ keyK 0x104#10 = 0#4 ∧ keyCls 0x104#10 = 4#3) ∧
    (keyK 0x01B#10 ≠ 0#4 ∧ keyCls 0x01B#10 = 3#3 ∧ keyLevel 0x01B#10 = .high) ∧
    (keyK 0x010#10 ≠ 0#4 ∧ keyCls 0x010#10 = 0#3 ∧
      (keyLevel 0x010#10 = .high ↔ (keyK 0x010#10).toNat % 2 = 0)) ∧
    (decodeKey 0x201#10).toOption = some (.initBreak .narrow) ∧
    (decodeKey 0x01C#10).toOption = some (.syncFailWrongLevel 1#4 .high) := by
  decide

/-- A state with `k = 10`, where the class is undefined, and one with `first = 1` and `k = 1`, whose key is 0x218. -/
theorem witness_unmatchedKeys_states :
    (Enabled (training 10 500 1000 .high [100]) ∧ PulseEnds (training 10 500 1000 .high [100]) 1100 ∧
      dispatchKey (training 10 500 1000 .high [100]) 1100 = none) ∧
    (Enabled { training 1 500 1000 .high [100] with first := true } ∧
      PulseEnds { training 1 500 1000 .high [100] with first := true } 1100 ∧
      dispatchKey { training 1 500 1000 .high [100] with first := true } 1100 = some 0x218#10 ∧
      (decodeKey 0x218#10).toOption = none) := by
  unfold Enabled PulseEnds; decide

theorem witness_dispatchKeyLayout : dispatchKey (training 7 500 1000 .high [100]) 1100 = some 0x078#10 := by decide

theorem witness_eventRecordPacking :
    (2 ^ 64 - 1 < 2 ^ 64 ∧ 1000 < 2 ^ 64) ∧ 8 * 25 < 16 + 3 * 64 := by
  decide

/-- A canonical channel with samples just after the start, at a transition and beside one. -/
theorem witness_levelChanges :
    (trace .high [500, 100]).Wf 0 ∧ 0 < 1 ∧ 1 ∉ (trace .high [500, 100]).edges ∧
    500 ∈ (trace .high [500, 100]).edges ∧ 501 ∉ (trace .high [500, 100]).edges := by
  decide

theorem witness_nextTransitionIsLeast :
    (trace .high [500, 100]).nextT 499 = some 500 ∧ (trace .high [500, 100]).nextT 500 = some 600 ∧
    (trace .high [500, 100]).nextT 600 = none := by
  decide

theorem witness_crossedParity :
    (trace .high [500, 100]).crossed 500 500 = 0 ∧ (trace .high [500, 100]).crossed 499 500 = 1 ∧
    (trace .high [500, 100]).crossed 499 600 = 2 := by
  decide

theorem witness_framingThreshold :
    (trace .high [110, 20]).level 50 = .high ∧ (trace .high [110, 20]).level 150 = .high ∧
    (trace .high [110, 20]).crossed 50 150 = 2 := by
  decide

theorem witness_tolerancePredicates : (0#32).getLsbD 0 = false ∧ (1#32).getLsbD 0 = true := by decide

theorem witness_widthFailuresExclude : isNarrow 0#32 74 1000 = true ∧ isNarrow 1#32 49 1000 = true := by decide

theorem witness_stepRunsSelected :
    Enabled (training 7 500 1000 .high [100]) ∧ PulseEnds (training 7 500 1000 .high [100]) 1100 ∧
    dispatchKey (training 7 500 1000 .high [100]) 1100 = some 0x078#10 ∧
    (decode (.keyed 0x078#10)).toOption = some (.syncBit 7#4) ∧ (training 7 500 1000 .high [100]).turns = [] ∧
    ({ training 7 500 1000 .high [100] with turns := [.core, .core] } : State).turns = .core :: [.core] := by
  unfold Enabled PulseEnds; decide

/-- The hypotheses that the four clauses share, and the boundary widths 1301, 1300, 75 and 74 of the LOW pulses. -/
theorem witness_synchronisedDispatch :
    (Enabled (synced .high 2000 [1]) ∧ PulseEnds (synced .high 2000 [1]) 2001 ∧
      (synced .high 2000 [1]).first = false ∧ (synced .high 2000 [1]).phase = .synchronized ∧
      (synced .high 2000 [1]).k = 0#4 ∧ (synced .high 2000 [1]).chan.level 2000 = .high) ∧
    (PulseEnds (synced .low 2000 [1301]) 3301 ∧ (synced .low 2000 [1301]).chan.level 2000 = .low ∧
      10 * (3301 - 2000) > 13 * 1000) ∧
    (PulseEnds (synced .low 2000 [1300]) 3300 ∧ ¬10 * (3300 - 2000) > 13 * 1000 ∧ isNarrow 0#32 1300 1000 = false) ∧
    (PulseEnds (synced .low 2000 [75]) 2075 ∧ isNarrow 0#32 (2075 - 2000) 1000 = false) ∧
    PulseEnds (synced .low 2000 [74]) 2074 ∧ isNarrow 0#32 (2074 - 2000) 1000 = true := by
  unfold Enabled PulseEnds; decide

theorem witness_idleWaitDispatch :
    (Enabled (later .high 500 [1]) ∧ PulseEnds (later .high 500 [1]) 501 ∧
      (later .high 500 [1]).phase = .unsynchronized ∧ (later .high 500 [1]).k = 0#4 ∧
      (later .high 500 [1]).chan.level 500 = .high) ∧
    (PulseEnds { State.reset with chan := trace .low [40] } 40 ∧
      ({ State.reset with chan := trace .low [40] } : State).first = true ∧ (trace .low [40]).level 0 = .low) ∧
    (PulseEnds { later .low 500 [1301] with bp10 := 1000 } 1801 ∧ 10 * (1801 - 500) > 13 * 1000 ∧
      (later .low 500 [1301]).chan.level 500 = .low ∧ (later .low 500 [1301]).first = false) ∧
    (PulseEnds { later .low 500 [1300] with bp10 := 1000 } 1800 ∧ ¬10 * (1800 - 500) > 13 * 1000) ∧
    PulseEnds (later .low 500 [100000]) 100500 ∧ (later .low 500 [100000]).bp10 = 0 := by
  unfold Enabled PulseEnds; decide

/-- The shared hypotheses at positions 1 and 9; a BREAK; a wrong level; and the last failing and first passing widths. -/
theorem witness_trainingDispatch :
    (Enabled (training 1 500 1000 .high [75]) ∧ PulseEnds (training 1 500 1000 .high [75]) 1075 ∧
      (training 1 500 1000 .high [75]).first = false ∧ (training 1 500 1000 .high [75]).phase = .unsynchronized ∧
      (training 1 500 1000 .high [75]).k.toNat = 1 ∧ (training 1 500 1000 .high [75]).chan.level 1000 = .high ∧
      isNarrow 0#32 (1075 - 1000) (10 * 1 * 100) = false ∧ isWide 0#32 (1075 - 1000) (10 * 1 * 100) = false) ∧
    (PulseEnds (training 1 500 1000 .high [74]) 1074 ∧ isNarrow 0#32 (1074 - 1000) (10 * 1 * 100) = true) ∧
    (PulseEnds (training 1 500 1000 .high [251]) 1251 ∧ isNarrow 0#32 (1251 - 1000) (10 * 1 * 100) = false ∧
      isWide 0#32 (1251 - 1000) (10 * 1 * 100) = true) ∧
    (PulseEnds (training 1 500 1000 .low [100]) 1100 ∧ (training 1 500 1000 .low [100]).chan.level 1000 = .low) ∧
    (PulseEnds { training 4 4000 4300 .low [1301] with bp10 := 1000 } 5601 ∧ 10 * (5601 - 4300) > 13 * 1000 ∧
      (training 4 4000 4300 .low [1301]).chan.level 4300 = .low) ∧
    (PulseEnds (training 8 500 1000 .low [150]) 1150 ∧ (training 8 500 1000 .low [150]).k.toNat = 8 ∧
      isNarrow 0#32 (1150 - 1000) (10 * 2 * 100) = false ∧ isWide 0#32 (1150 - 1000) (10 * 2 * 100) = false) ∧
    PulseEnds (training 9 500 1000 .high [501]) 1501 ∧ (training 9 500 1000 .high [501]).k.toNat = 9 ∧
      isWide 0#32 (1501 - 1000) (10 * 2 * 100) = true ∧ (0#32).getLsbD 3 = false ∧ (8#32).getLsbD 3 = true := by
  unfold Enabled PulseEnds; decide

/-- A pulse whose end is the last index that fits, and a sink with room for one record: the hypotheses of the statements of
IDLE, BREAK, SYNC.START, SYNC.BIT, SYNC.PAIR and RESYNC. -/
theorem witness_pulseOperations :
    let s : State := { overflowing .high 4294967196 [99] with sink := .room 1 }
    PulseEnds s 4294967295 ∧ s.fits 4294967295 = true ∧ s.sink.ready = true ∧ s.k.toNat ≤ 14 := by
  unfold PulseEnds; decide

theorem witness_syncFail :
    let s : State := training 9 500 1000 .high [149]
    PulseEnds s 1149 ∧ s.fits 1149 = true ∧ s.cfg.getLsbD 1 = false ∧ (2#32).getLsbD 1 = true ∧ s.params.Legal ∧
      s.fits s.origin = true ∧ s.sink.ready = true := by
  unfold PulseEnds; decide

/-- Both cases of the minimum: the idle is longer, and shorter, than the stop bits (S8, S9). -/
theorem witness_syncDone :
    let s : State := training 9 500 1500 .high [500]
    let t : State := training 9 500 1500 .high [150]
    (PulseEnds s 2000 ∧ s.origin < s.pos ∧ 1700 = min 2000 (s.pos + (s.pos - s.origin) / 5) ∧ s.fits 1700 = true ∧
      s.sink.ready = true) ∧
    PulseEnds t 1650 ∧ 1650 = min 1650 (t.pos + (t.pos - t.origin) / 5) := by
  unfold PulseEnds; decide

/-- The three ways in which a frame ends: stop 2 LOW, an edge before the nominal end, the nominal end (F12, F11, F6). -/
theorem witness_frameResumes :
    FrameResumesAt (synced .low 2000 [100, 100, 500, 100, 200, 150, 100]) 3250 ∧
    FrameResumesAt (synced .low 2000 [100, 100, 500, 100, 200, 180, 100]) 3180 ∧
    FrameResumesAt (synced .low 2000 [100, 200, 300, 100, 100, 100, 100]) 3200 := by
  unfold FrameResumesAt; decide

/-- The other hypotheses of FRAME, on F6 (byte 0xA3, no framing error) and on F12 (byte 0x41, a framing error). -/
theorem witness_frameDecodesByte :
    (let s : State := synced .low 2000 [100, 200, 300, 100, 100, 100, 100]
     PulseEnds s 2100 ∧ s.params.Legal ∧ 1 ≤ s.bp10 ∧ s.fits s.bp10 = true ∧
     (∀ i, i < 8 → (0xA3#8).getLsbD i =
       decide (s.chan.level (s.pos + (2 * (i + 1) + 1) * s.bp10 / 20) = .high)) ∧
     ¬(s.chan.level 3050 = .low ∨ s.chan.level 3150 = .low ∨ 1 ≤ s.chan.crossed 3050 3150) ∧
     s.fits 3200 = true ∧ s.sink.ready = true) ∧
    (let s : State := synced .low 2000 [100, 100, 500, 100, 200, 150, 100]
     PulseEnds s 2100 ∧
     (∀ i, i < 8 → (0x41#8).getLsbD i =
       decide (s.chan.level (s.pos + (2 * (i + 1) + 1) * s.bp10 / 20) = .high)) ∧
     s.chan.level 3150 = .low ∧ s.fits 3250 = true) := by
  unfold PulseEnds; decide

theorem witness_cancellation :
    ({ synced .high 3200 [] with cancel := true } : State).halted = false ∧
    ({ synced .high 3200 [] with halted := true } : State).halted = true := by
  decide

theorem witness_unsuppliedPulse :
    (synced .high 3200 []).params.captureStart ≤ (synced .high 3200 []).pos ∧
    (synced .high 3200 []).chan.nextT 3200 = none ∧ Enabled (synced .high 3200 []) := by
  unfold Enabled; decide

/-- `C(11)` not supplied; stop 2 LOW and never ending; the last sample before `B12` supplied and `B12` not. -/
theorem witness_unsuppliedFrame :
    (partialFrame 3149).chan.supplied 3150 = false ∧
    ((synced .low 2000 [100, 100, 500, 100, 200, 150]).chan.level 3150 = .low ∧
      (synced .low 2000 [100, 100, 500, 100, 200, 150]).chan.nextT 3150 = none) ∧
    (partialFrame 3199).chan.level 3150 = .high ∧ (partialFrame 3199).chan.supplied 3200 = false := by
  decide

/-- A sink with no room: where everything fits (a pulse, SYNC.DONE, SYNC.FAIL, F6's frame), and where the end of the pulse or
the resume point is `2 ^ 32`. -/
theorem witness_unreadySink :
    (let s : State := { training 9 500 1500 .high [500] with sink := .room 0, cfg := 2#32 }
     PulseEnds s 2000 ∧ s.sink.ready = false ∧ s.fits 2000 = true ∧ s.cfg.getLsbD 1 = true ∧ s.params.Legal ∧
     s.fits s.origin = true ∧ s.origin < s.pos ∧ 1700 = min 2000 (s.pos + (s.pos - s.origin) / 5) ∧
     s.fits 1700 = true) ∧
    (let s : State := { synced .low 2000 [100, 200, 300, 100, 100, 100, 100] with sink := .room 0 }
     PulseEnds s 2100 ∧ s.sink.ready = false ∧ FrameResumesAt s 3200 ∧ 1 ≤ s.bp10 ∧ s.fits s.bp10 = true ∧
     s.fits 3200 = true) ∧
    (let s : State := { overflowing .high 4294967196 [1000] with origin := 4294966696, sink := .room 0 }
     PulseEnds s 4294968196 ∧ s.sink.ready = false ∧ s.fits 4294968196 = false ∧
     4294967296 = min 4294968196 (s.pos + (s.pos - s.origin) / 5) ∧ s.fits 4294967296 = false) ∧
    (let s : State := { overflowing .low 4294967176 [60] with bp10 := 100, sink := .room 0 }
     PulseEnds s 4294967236 ∧ s.sink.ready = false ∧ FrameResumesAt s 4294967296 ∧ s.fits 4294967296 = false) ∧
    (let s : State := { overflowing .high 500 [100] with origin := 4294967296, sink := .room 0 }
     PulseEnds s 600 ∧ s.sink.ready = false ∧ s.pos < s.origin ∧ s.fits s.origin = false) := by
  unfold PulseEnds FrameResumesAt; decide

/-- On each side of the supplied samples: the first that is not supplied, and a supplied transition. -/
theorem witness_hostSupply :
    State.reset.chan.supplied 1 = false ∧ State.reset.chan.nextT State.reset.pos = none ∧ State.reset.pos < 1 ∧
    (partialFrame 3100).chan.supplied 2100 = true ∧ 2100 ∈ (partialFrame 3100).chan.edges := by
  decide

/-- An end at `2 ^ 32`; a SYNC.DONE, and a frame, that would resume there; an origin above the cursor. -/
theorem witness_cursorOverflow :
    (PulseEnds (overflowing .high 4294967196 [100]) 4294967296 ∧
      (overflowing .high 4294967196 [100]).fits 4294967296 = false) ∧
    (let s : State := { overflowing .high 4294967196 [1000] with origin := 4294966696 }
     PulseEnds s 4294968196 ∧ 4294967296 = min 4294968196 (s.pos + (s.pos - s.origin) / 5) ∧
     s.fits 4294967296 = false) ∧
    (let s : State := training 9 500 499 .high [100]
     PulseEnds s 599 ∧ s.pos < s.origin) ∧
    (let s : State := { overflowing .low 4294967176 [60] with bp10 := 100 }
     PulseEnds s 4294967236 ∧ FrameResumesAt s 4294967296 ∧ s.fits 4294967296 = false) := by
  unfold PulseEnds FrameResumesAt; decide

/-- A frame that completes, for the statements about every operation that answers a next state. -/
theorem witness_execNext :
    ∃ t, exec .frame (synced .low 2000 [100, 200, 300, 100, 100, 100, 100]) = .next t ∧
      t ≠ synced .low 2000 [100, 200, 300, 100, 100, 100, 100] :=
  ⟨_, rfl, by decide⟩

theorem witness_reset : (0xF#32).toNat < 16 ∧ State.reset.params.Legal := by decide

theorem witness_reservedConfiguration : 4 ≤ 4 ∧ (0x10#32).getLsbD 4 = true ∧ (0x80000000#32).getLsbD 31 = true := by
  decide

theorem witness_hostViolations :
    (let s : State := { State.reset with turns := [.host (.presentCfg 1#32)] }
     s.turns = .host (.presentCfg 1#32) :: [] ∧ s.halted = false ∧ 1#32 ≠ s.cfg) ∧
    (let s : State := { State.reset with turns := [.host (.moveCursor 5)] }
     s.turns = .host (.moveCursor 5) :: [] ∧ 5 ≠ s.pos) ∧
    (let s : State := { State.reset with turns := [.host (.alterSample 0)] }
     s.turns = .host (.alterSample 0) :: [] ∧ s.params.captureStart ≤ 0 ∧ s.chan.supplied 0 = true) ∧
    (let s : State := { State.reset with turns := [.host (.supplyEdge 0)] }
     s.turns = .host (.supplyEdge 0) :: [] ∧ s.chan.supplied 0 = true ∧ 0 ∉ s.chan.edges) := by
  decide

theorem witness_hostTurns :
    (∃ t, hostTurn (.supplyEdge 1) State.reset = .next t ∧ t ≠ State.reset) ∧
    State.reset.chan.Wf State.reset.params.captureStart ∧ State.reset.chan.supplied 0 = true :=
  ⟨⟨_, rfl, by decide⟩, by decide⟩

/-- The synchronised state before F6's frame, after one record, with the samples of the frame supplied and no more. It meets
the engine's invariant, and its turn answers a next state: with these, the hypotheses of the whole-machine statements. -/
def framed : State :=
  { partialFrame 3200 with cfg := 2#32, events := [⟨0, 1999, 0x001#16, 0⟩] }

theorem witness_engineInvariant : EngineInvariant framed where
  r34 :=
    { syncNoPattern := by decide
      syncPeriod := by decide
      trainingPeriod := by decide
      position := by decide
      firstStep := by decide
      lowAtEdge := by decide }
  legal := by decide
  cfgReserved := by decide
  chanWf := by decide
  posStart := by decide
  posSupplied := by decide
  posFits := by decide
  originFits := by decide
  provFits := by decide
  bp10Fits := by decide
  patternSpan := by decide
  patternEdge := by decide

theorem witness_streamInvariant : StreamInvariant framed where
  ordered := by decide
  ranges := by decide
  flagSets := by decide
  fields := by decide
  dataBytes := by decide

theorem witness_stepKeeps : ∃ t, step framed = .next t ∧ t ≠ framed := ⟨_, rfl, by decide⟩

theorem witness_tiles :
    framed.cfg.getLsbD 1 = true ∧ Tiles framed.params.captureStart framed.events framed.mark ∧
    (∀ k, fetch framed = .runs (.breakU k) → framed.k = 0#4) :=
  ⟨by decide, by simp [Tiles, framed, partialFrame, synced, later, State.mark, State.reset, Params.default], fun _ _ => rfl⟩

theorem witness_moreSupply :
    (∃ t, coreTurn framed = .next t ∧ t ≠ framed) ∧
    Extends framed.chan { framed.chan with edges := framed.chan.edges ++ [3201], supply := .through 3201 } := by
  refine ⟨⟨_, rfl, by decide⟩, rfl, ⟨[3201], rfl, by decide⟩, ?_⟩
  intro n h
  have h : n ≤ 3200 := by simpa [Channel.supplied, framed, partialFrame] using h
  simp [Channel.supplied]
  omega

theorem witness_sameButDead :
    SameButDead framed { framed with origin := 7, prov := 9 } ∧ framed.k = 0#4 :=
  ⟨⟨rfl, by decide⟩, rfl⟩

/-- The level of each bit of the frame of 0xA3 with correct parity (F6). -/
def bitsA3 (j : Nat) : Level :=
  [Level.low, .high, .high, .low, .low, .low, .high, .low, .high, .low, .high, .high].getD j .low

/-- The same frame at one sample per bit. -/
def shortFrame : State :=
  { synced .low 2000 [1, 2, 3, 1, 1, 1, 1] with bp10 := 10 }

theorem witness_frameRoundTrip :
    PulseEnds shortFrame 2001 ∧ shortFrame.params.Legal ∧ shortFrame.chan.Wf shortFrame.params.captureStart ∧
    shortFrame.bp10 = 10 * 1 ∧ shortFrame.cfg.getLsbD 2 = false ∧
    (∀ j n, j < 12 → shortFrame.pos + j * 1 ≤ n → n < shortFrame.pos + (j + 1) * 1 →
      shortFrame.chan.level n = bitsA3 j) ∧
    bitsA3 0 = .low ∧ (∀ i, i < 8 → bitsA3 (i + 1) = if (0xA3#8).getLsbD i then .high else .low) ∧
    bitsA3 10 = .high ∧ bitsA3 11 = .high ∧ shortFrame.chan.supplied (shortFrame.pos + 12 * 1) = true ∧
    shortFrame.fits (shortFrame.pos + 12 * 1) = true ∧ shortFrame.sink.ready = true := by
  refine ⟨⟨by decide, by decide⟩, by decide, by decide, by decide, by decide, ?_, by decide, by decide, by decide,
    by decide, by decide, by decide, by decide⟩
  intro j n hj h1 h2
  have hn : n = 2000 + j := by
    simp only [shortFrame, synced, later] at h1 h2
    omega
  subst hn
  revert j
  decide

/-- Idle-wait at the falling edge of the pattern of A1. -/
def patternA1 : State := later .low 500 [100, 100, 100, 100, 100, 100, 100, 100, 200, 500]

theorem witness_patternInvariant : EngineInvariant patternA1 where
  r34 :=
    { syncNoPattern := by decide
      syncPeriod := by decide
      trainingPeriod := by decide
      position := by decide
      firstStep := by decide
      lowAtEdge := by decide }
  legal := by decide
  cfgReserved := by decide
  chanWf := by decide
  posStart := by decide
  posSupplied := by decide
  posFits := by decide
  originFits := by decide
  provFits := by decide
  bp10Fits := by decide
  patternSpan := by decide
  patternEdge := by decide

/-- With `witness_patternInvariant`, the hypotheses of the pattern's statement. -/
theorem witness_syncPatternLocks :
    let ws := [100, 100, 100, 100, 100, 100, 100, 100, 200]
    Enabled patternA1 ∧ patternA1.turns = [] ∧ patternA1.phase = .unsynchronized ∧ patternA1.k = 0#4 ∧
    patternA1.first = false ∧ patternA1.chan.level patternA1.pos = .low ∧
    patternA1.chan.edges = [500] ++ pulseEnds patternA1.pos (ws ++ [500]) ++ [] ∧
    (∀ t ∈ [500], t ≤ patternA1.pos) ∧ ws.length = 9 ∧ (∀ w ∈ ws, 1 ≤ w) ∧ patternA1.bp10 = 0 ∧
    (∀ i, i < 8 → 1 ≤ i → isNarrow patternA1.cfg (ws.getD i 0) (10 * ws.getD 0 0) = false ∧
      isWide patternA1.cfg (ws.getD i 0) (10 * ws.getD 0 0) = false) ∧
    isNarrow patternA1.cfg (ws.getD 8 0) (20 * ws.getD 0 0) = false ∧
    isWide patternA1.cfg (ws.getD 8 0) (20 * ws.getD 0 0) = false ∧
    isNarrow patternA1.cfg 500 (20 * ws.getD 0 0) = false ∧ patternA1.cfg.getLsbD 3 = false ∧
    patternA1.fits (patternA1.pos + ws.sum + 500) = true ∧ patternA1.sink.ready = true ∧
    1700 = min (patternA1.pos + ws.sum + 500) (patternA1.pos + ws.sum + ws.sum / 5) := by
  unfold Enabled; decide

/-- A1, steps 2 to 11: the pattern locks as `witness_syncPatternLocks` sets it up. -/
theorem test_pattern_A1 :
    regsOf (Host.Core.run Sys2Proof.core 10 patternA1) = some (.synchronized, 0, 1000, 1700) := by
  decide

/-- A pattern after an earlier lock at `bp10 = 116`: its HIGH pulses of 250 samples are longer than 13 old periods and are
pattern bits, its LOW pulses are not longer (R134). -/
def patternRelock : State :=
  { later .low 500 [100, 250, 100, 250, 100, 250, 100, 250, 150, 500] with bp10 := 116 }

theorem witness_syncPatternLocks_relock :
    (∀ i, i ≤ 8 → i % 2 = 0 →
      10 * [100, 250, 100, 250, 100, 250, 100, 250, 150].getD i 0 ≤ 13 * patternRelock.bp10) ∧
    10 * 250 > 13 * patternRelock.bp10 ∧
    regsOf (Host.Core.run Sys2Proof.core 10 patternRelock) = some (.synchronized, 0, 1550, 2360) := by
  decide

/-- A cancellation that is withdrawn before the core's turn is not seen (log entry 16). -/
theorem test_cancel_withdrawn :
    nextOf (Host.Core.run Sys2Proof.core 3
      { synced .high 3200 [] with turns := [.host (.setCancel true), .host (.setCancel false), .core] }) =
      some (synced .high 3200 []) := by
  decide

end Sys2Proof.Tests
end

section
/-! The channel of a canonical trace: which samples its transitions lie on, and what its levels say about them. -/

namespace Sys2Proof

/-- Two changes of level undo each other. -/
@[simp] theorem Level.flip_flip (l : Level) : l.flip.flip = l := by
  cases l <;> rfl

/-- A level is not its opposite. -/
theorem Level.ne_flip (l : Level) : l ≠ l.flip := by
  cases l <;> decide

end Sys2Proof

namespace Sys2Proof.Machine

/-- The level at `b` is the level at `a`, changed once per transition crossed on the way (R52, R54). -/
theorem Channel.level_of_crossed (c : Channel) {a b : Nat} (h : a ≤ b) :
    c.level b = if c.crossed a b % 2 = 0 then c.level a else (c.level a).flip := by
  unfold Channel.level
  rw [c.count_split h, Nat.add_mod]
  rcases Nat.mod_two_eq_zero_or_one (c.edges.countP fun t => decide (t ≤ a)) with ha | ha <;>
    rcases Nat.mod_two_eq_zero_or_one (c.crossed a b) with hc | hc <;> simp [ha, hc]

/-- A transition is crossed exactly once by the move to its sample: transitions do not repeat. -/
theorem Channel.crossed_pred_of_mem {c : Channel} {start t : Nat} (hw : c.Wf start) (ht : t ∈ c.edges) :
    c.crossed (t - 1) t = 1 := by
  obtain ⟨hp, he, -⟩ := hw
  have h0 : 0 < t := Nat.zero_lt_of_lt (he t ht).1
  have hpred : (fun u => decide (t - 1 < u ∧ u ≤ t)) = (fun u => u == t) := by
    funext u
    simp only [beq_eq_decide, decide_eq_decide]
    omega
  have hnodup : c.edges.Nodup := hp.imp Nat.ne_of_lt
  rw [Channel.crossed, hpred]
  exact List.count_eq_one_of_mem hnodup ht

/-- The level changes at every transition (R51). -/
theorem Channel.level_of_mem {c : Channel} {start t : Nat} (hw : c.Wf start) (ht : t ∈ c.edges) :
    c.level t = (c.level (t - 1)).flip := by
  rw [c.level_of_crossed (Nat.sub_le t 1), Channel.crossed_pred_of_mem hw ht]
  rfl

/-- A sample that has the level of the sample before it is no transition. -/
theorem Channel.not_mem_of_level_eq {c : Channel} {start t : Nat} (hw : c.Wf start)
    (h : c.level t = c.level (t - 1)) : t ∉ c.edges := by
  intro ht
  exact Level.ne_flip _ (h.symm.trans (Channel.level_of_mem hw ht))

/-- Where the level stays the same there is no transition. -/
theorem Channel.not_mem_of_level_const {c : Channel} {start a b t : Nat} {l : Level} (hw : c.Wf start)
    (hl : ∀ n, a ≤ n → n < b → c.level n = l) (hat : a < t) (htb : t < b) : t ∉ c.edges :=
  Channel.not_mem_of_level_eq hw ((hl t (by omega) htb).trans (hl (t - 1) (by omega) (by omega)).symm)

/-- Nothing is crossed exactly where no transition lies (R54). -/
theorem Channel.crossed_eq_zero_iff (c : Channel) (a b : Nat) :
    c.crossed a b = 0 ↔ ∀ t ∈ c.edges, ¬(a < t ∧ t ≤ b) := by
  simp [Channel.crossed, List.countP_eq_zero]

/-- The next transition is undefined exactly where no transition lies above (R53). -/
theorem Channel.nextT_eq_none_iff (c : Channel) (n : Nat) : c.nextT n = none ↔ ∀ t ∈ c.edges, ¬ n < t := by
  simp [Channel.nextT]

/-- The next transition is the least one above the sample asked about (R53). -/
theorem Channel.nextT_le {c : Channel} {start n t u : Nat} (hw : c.Wf start) (h : c.nextT n = some t)
    (hu : u ∈ c.edges) (hn : n < u) : t ≤ u := by
  obtain ⟨-, before, after, hsplit, hbefore⟩ := List.find?_eq_some_iff_append.1 h
  obtain ⟨hp, -, -⟩ := hw
  rw [hsplit] at hp hu
  rcases List.mem_append.1 hu with hu | hu
  · exact absurd hn (by simpa using hbefore u hu)
  · rcases List.mem_cons.1 hu with rfl | hu
    · exact Nat.le_refl _
    · exact Nat.le_of_lt (List.rel_of_pairwise_cons (List.pairwise_append.1 hp).2.1 hu)

/-- A transition with none between it and `n` is the next one after `n`. -/
theorem Channel.nextT_eq_some {c : Channel} {start n t : Nat} (hw : c.Wf start) (ht : t ∈ c.edges) (hn : n < t)
    (hleast : ∀ u, n < u → u < t → u ∉ c.edges) : c.nextT n = some t := by
  cases h : c.nextT n with
  | none => exact absurd hn ((c.nextT_eq_none_iff n).1 h t ht)
  | some u =>
    have hle := Channel.nextT_le hw h ht hn
    have hge : ¬ u < t := fun hlt => hleast u (Channel.lt_nextT h) hlt (Channel.nextT_mem h)
    exact congrArg some (by omega)

end Sys2Proof.Machine
end

section
/-! The two parameters that no rule reads (R7): every function of the core answers the same on `s.withHints r c` as on `s`,
and what it answers carries `r` and `c` on. -/

namespace Sys2Proof.Machine

variable (s : State) (r c : Nat)

@[simp] theorem State.withHints_bp10 : (s.withHints r c).bp10 = s.bp10 := rfl
@[simp] theorem State.withHints_pos : (s.withHints r c).pos = s.pos := rfl
@[simp] theorem State.withHints_chan : (s.withHints r c).chan = s.chan := rfl
@[simp] theorem State.withHints_turns : (s.withHints r c).turns = s.turns := rfl
@[simp] theorem State.withHints_recordOf : (s.withHints r c).recordOf = s.recordOf := rfl

/-- The dispatch reads neither parameter. -/
@[simp] theorem fetch_withHints : fetch (s.withHints r c) = fetch s := rfl

/-- A next state carries the parameters on; a fault or a refusal stays as it is. -/
abbrev hinted (res : Result) : Result :=
  mapNext (fun t => t.withHints r c) res

variable {s r c}

/-- A branch whose condition reads neither parameter commutes when both its sides do. -/
theorem ite_hinted {p : Prop} [Decidable p] {x x' y y' : Result} (hx : x' = hinted r c x) (hy : y' = hinted r c y) :
    (if p then x' else y') = hinted r c (if p then x else y) := by
  subst hx hy
  exact (apply_ite _ p x y).symm

theorem observe_withHints {body body' : Nat → Result} (hbody : ∀ T, body' T = hinted r c (body T)) :
    observe (s.withHints r c) body' = hinted r c (observe s body) := by
  refine ite_hinted rfl ?_
  rw [State.withHints_chan, State.withHints_pos]
  cases s.chan.nextT s.pos with
  | none => rfl
  | some T => exact hbody T

theorem finish_withHints (s s' : State) (stored : List Nat) :
    finish (s.withHints r c) (s'.withHints r c) stored = hinted r c (finish s s' stored) :=
  ite_hinted rfl rfl

theorem finishEmit_withHints (s s' : State) (stored : List Nat) (start stop : Nat) (flags : FlagWord) (value : Nat) :
    finishEmit (s.withHints r c) (s'.withHints r c) stored start stop flags value =
      hinted r c (finishEmit s s' stored start stop flags value) := by
  simp only [finishEmit, State.withHints_recordOf]
  cases s.recordOf start stop flags value with
  | none => rfl
  | some e => exact ite_hinted (ite_hinted rfl rfl) rfl

theorem reportPulse_withHints (s s' : State) (flags : FlagWord) :
    reportPulse (s.withHints r c) (s'.withHints r c) flags = hinted r c (reportPulse s s' flags) :=
  observe_withHints fun T => finishEmit_withHints s { s' with pos := T } _ _ _ _ _

theorem failPattern_withHints (flag : FlagWord) :
    failPattern (s.withHints r c) flag = hinted r c (failPattern s flag) :=
  observe_withHints fun T =>
    ite_hinted (finishEmit_withHints s { s with k := 0#4, pos := T } _ _ _ _ _)
      (finish_withHints s { s with k := 0#4, pos := T } _)

theorem execSyncDone_withHints : execSyncDone (s.withHints r c) = hinted r c (execSyncDone s) :=
  observe_withHints fun T => ite_hinted rfl <| finishEmit_withHints s
    { s with
      bp10 := s.pos - s.origin
      phase := .synchronized
      k := 0#4
      pos := syncResume s.pos (s.pos - s.origin) T } _ _ _ _ _

theorem execFrame_withHints : execFrame (s.withHints r c) = hinted r c (execFrame s) := by
  refine observe_withHints fun T => ?_
  simp only [State.withHints_chan, State.withHints_pos, State.withHints_bp10]
  cases readFrame s.chan s.pos s.bp10 with
  | none => rfl
  | some f => exact finishEmit_withHints s { s with pos := f.resume } _ _ _ _ _

/-- No operation reads either parameter. -/
theorem exec_withHints (i : Instr) : exec i (s.withHints r c) = hinted r c (exec i s) := by
  cases i with
  | initBreak | idleU | idleS => exact reportPulse_withHints s s _
  | breakU => exact reportPulse_withHints s { s with k := 0#4 } _
  | breakS => exact reportPulse_withHints s { s with phase := .unsynchronized, k := 0#4 } _
  | syncStart =>
    exact observe_withHints fun T =>
      finish_withHints s { s with origin := s.pos, prov := T - s.pos, k := 1#4, pos := T } _
  | syncBit => exact observe_withHints fun T => finish_withHints s { s with k := s.k + 1#4, pos := T } _
  | syncPair => exact observe_withHints fun T => finish_withHints s { s with k := 9#4, pos := T } _
  | syncFailNarrow | syncFailWide | syncFailWrongLevel => exact failPattern_withHints _
  | syncDone => exact execSyncDone_withHints
  | resync =>
    exact observe_withHints fun _ => finish_withHints s { s with phase := .unsynchronized, k := 0#4 } _
  | frame => exact execFrame_withHints
  | halt => rfl

/-- No turn of the core reads either parameter. -/
theorem coreTurn_withHints : coreTurn (s.withHints r c) = hinted r c (coreTurn s) := by
  simp only [coreTurn, fetch_withHints]
  cases fetch s with
  | waits | faults => rfl
  | runs i => exact exec_withHints i

/-- No turn of the host reads either parameter. -/
theorem hostTurn_withHints (a : HostAction) : hostTurn a (s.withHints r c) = hinted r c (hostTurn a s) := by
  cases a with
  | reset | supplyEdge => exact ite_hinted (ite_hinted rfl rfl) rfl
  | supplyQuiet | presentCfg | moveCursor | alterSample => exact ite_hinted rfl rfl
  | supplyRest | setCancel | setSink => rfl

/-- Settles O50: whoever takes the turn, the core or the host, it commutes with a change of the two parameters. -/
theorem hintsAreNeverRead : Obligations.HintsAreNeverRead := by
  intro s r c
  simp only [step, State.withHints_turns]
  match s.turns with
  | [] => exact coreTurn_withHints
  | .core :: rest => exact coreTurn_withHints (s := { s with turns := rest })
  | .host a :: rest => exact hostTurn_withHints (s := { s with turns := rest }) a

end Sys2Proof.Machine
end

section
/-! A frame of clean bit intervals of `P` samples: the bit centres lie inside their intervals, so FRAME reads each interval's
level there. -/

namespace Sys2Proof.Machine

/-- At `P` whole samples per bit the centre of bit `j` is the middle of its interval (R184). -/
theorem bitCentre_whole (s0 P j : Nat) : bitCentre s0 (10 * P) j = s0 + j * P + P / 2 := by
  have : (2 * j + 1) * (10 * P) = 10 * (2 * (j * P) + P) := by ring
  rw [bitCentre, this]
  omega

/-- At `P` whole samples per bit the frame ends after twelve intervals (R184). -/
theorem frameEnd_whole (s0 P : Nat) : frameEnd s0 (10 * P) = s0 + 12 * P := by
  rw [frameEnd]
  omega

/-- A byte is assembled from its own bits, least significant first (R184). -/
theorem assembleByte_getLsbD (byte : Byte) : assembleByte (fun i => byte.getLsbD i) = byte := by
  revert byte
  decide

/-- The parity bit is wrong exactly when it is not HIGH for an odd byte and LOW for an even one (R185). -/
theorem parityError_eq (byte : Byte) (parity : Level) :
    parityError byte parity = !decide (parity = if popcount byte % 2 = 1 then .high else .low) := by
  unfold parityError
  cases parity <;> by_cases h : popcount byte % 2 = 1 <;> simp [h, Level.isHigh]

/-- Each of the twelve bit intervals of `P` samples from `s0` on carries one level, `bit j` in interval `j`. -/
def CleanBits (c : Channel) (s0 P : Nat) (bit : Nat → Level) : Prop :=
  ∀ j n, j < 12 → s0 + j * P ≤ n → n < s0 + (j + 1) * P → c.level n = bit j

section
variable {c : Channel} {start s0 P : Nat} {bit : Nat → Level}

/-- The centre of a bit shows the level of its interval. -/
theorem CleanBits.level_bitCentre (hb : CleanBits c s0 P bit) (hP : 1 ≤ P) {j : Nat} (hj : j < 12) :
    c.level (bitCentre s0 (10 * P) j) = bit j := by
  rw [bitCentre_whole]
  refine hb j _ hj (by omega) ?_
  rw [Nat.add_mul]
  omega

/-- The frame's byte is the one its data bits carry. -/
theorem CleanBits.dataByte_eq (hb : CleanBits c s0 P bit) (hP : 1 ≤ P) {byte : Byte}
    (hbits : ∀ i, i < 8 → bit (i + 1) = if byte.getLsbD i then .high else .low) :
    dataByte c s0 (10 * P) = byte := by
  rw [← assembleByte_getLsbD byte, dataByte, assembleByte, assembleByte]
  refine congrArg (fun bits : List Nat => BitVec.ofNat 8 bits.sum) (List.map_congr_left fun i hi => ?_)
  have hi8 : i < 8 := List.mem_range.1 hi
  rw [hb.level_bitCentre hP (by omega), hbits i hi8]
  cases byte.getLsbD i <;> rfl

/-- Two HIGH stop bits make one HIGH run of `2 P` samples. -/
theorem CleanBits.level_stopBits (hb : CleanBits c s0 P bit) (h10 : bit 10 = .high) (h11 : bit 11 = .high) (n : Nat)
    (hn : s0 + 10 * P ≤ n) (hn12 : n < s0 + 12 * P) : c.level n = .high := by
  by_cases h : n < s0 + 11 * P
  · rw [hb 10 n (by decide) hn h, h10]
  · rw [hb 11 n (by decide) (by omega) hn12, h11]

/-- With two HIGH stop bits no transition lies inside the stop bits; one may lie at the frame's end. -/
theorem CleanBits.not_mem_stopBits (hb : CleanBits c s0 P bit) (hw : c.Wf start) (h10 : bit 10 = .high)
    (h11 : bit 11 = .high) {t : Nat} (ht : s0 + 10 * P < t) (ht12 : t < s0 + 12 * P) : t ∉ c.edges :=
  Channel.not_mem_of_level_const hw (hb.level_stopBits h10 h11) ht ht12

/-- With two HIGH stop bits there is no framing error (R186). -/
theorem CleanBits.no_framingError (hb : CleanBits c s0 P bit) (hw : c.Wf start) (hP : 1 ≤ P) (h10 : bit 10 = .high)
    (h11 : bit 11 = .high) :
    framingError (c.level (bitCentre s0 (10 * P) 10)) (c.level (bitCentre s0 (10 * P) 11))
      (c.crossed (bitCentre s0 (10 * P) 10) (bitCentre s0 (10 * P) 11)) = false := by
  have hcrossed : c.crossed (bitCentre s0 (10 * P) 10) (bitCentre s0 (10 * P) 11) = 0 := by
    rw [c.crossed_eq_zero_iff, bitCentre_whole, bitCentre_whole]
    rintro t ht ⟨hlo, hhi⟩
    exact hb.not_mem_stopBits hw h10 h11 (by omega) (by omega) ht
  rw [hcrossed, hb.level_bitCentre hP (by decide), hb.level_bitCentre hP (by decide), h10, h11]
  rfl

/-- With two HIGH stop bits the cursor resumes at the frame's end: nothing is crossed before it, and a transition at the end
itself is the point where the cursor would resume anyway (R187). -/
theorem CleanBits.frameResume_eq (hb : CleanBits c s0 P bit) (hw : c.Wf start) (hP : 1 ≤ P) (h10 : bit 10 = .high)
    (h11 : bit 11 = .high) (hs : c.supplied (s0 + 12 * P) = true) :
    frameResume c s0 (10 * P) = some (s0 + 12 * P) := by
  have hinside : ∀ u, s0 + 11 * P + P / 2 < u → u < s0 + 12 * P → u ∉ c.edges := fun u hu hu12 =>
    hb.not_mem_stopBits hw h10 h11 (by omega) hu12
  have hhigh : c.level (bitCentre s0 (10 * P) 11) = .high := (hb.level_bitCentre hP (by decide)).trans h11
  rw [frameResume, hhigh]
  simp only [frameEnd_whole, hs, if_true, bitCentre_whole]
  split
  · rename_i hcrossed
    by_cases hend : s0 + 12 * P ∈ c.edges
    · exact Channel.nextT_eq_some hw hend (by omega) hinside
    · have hnone : c.crossed (s0 + 11 * P + P / 2) (s0 + 12 * P) = 0 := by
        rw [c.crossed_eq_zero_iff]
        rintro t ht ⟨hlo, hhi⟩
        rcases Nat.lt_or_eq_of_le hhi with hlt | rfl
        · exact hinside t hlo hlt ht
        · exact hend ht
      omega
  · rfl

/-- What FRAME reads from clean bits with two HIGH stop bits (R183 to R187). -/
theorem CleanBits.readFrame_eq (hb : CleanBits c s0 P bit) (hw : c.Wf start) (hP : 1 ≤ P) {byte : Byte}
    (hbits : ∀ i, i < 8 → bit (i + 1) = if byte.getLsbD i then .high else .low) (h10 : bit 10 = .high)
    (h11 : bit 11 = .high) (hs : c.supplied (s0 + 12 * P) = true) :
    readFrame c s0 (10 * P) =
      some { byte := byte, perr := parityError byte (bit 9), ferr := false, resume := s0 + 12 * P } := by
  have hs11 : c.supplied (bitCentre s0 (10 * P) 11) = true := by
    rw [bitCentre_whole]
    exact Channel.supplied_of_le (by omega) hs
  rw [readFrame, if_pos hs11, hb.frameResume_eq hw hP h10 h11 hs, hb.dataByte_eq hP hbits,
    hb.no_framingError hw hP h10 h11, hb.level_bitCentre hP (by decide)]
  rfl

end

/-- Without `RETAG_55` a frame's event is a DATA event. -/
theorem frameFlags_of_not_retag {cfg : CfgWord} (h : cfgRetag55 cfg = false) (f : FrameReading) :
    frameFlags cfg f = dataFlags f.perr f.ferr := by
  simp [frameFlags, retagged, h]

/-- Without `RETAG_55` the value of a frame's event is its byte. -/
theorem frameValue_of_not_retag {cfg : CfgWord} (h : cfgRetag55 cfg = false) (b : Nat) (f : FrameReading) :
    frameValue cfg b f = f.byte.toNat := by
  simp [frameValue, retagged, h]

/-- Every byte fits in `SAMPLE_W` bits. -/
theorem State.fits_byte {s : State} (hl : s.params.Legal) (byte : Byte) : s.fits byte.toNat = true := by
  rw [State.fits_iff]
  calc byte.toNat < 2 ^ 8 := byte.isLt
    _ ≤ 2 ^ s.params.sampleW := Nat.pow_le_pow_right (by decide) (by have := hl.1; omega)

/-- FRAME completes when what it reads is supplied and fits and the sink accepts (R183). -/
theorem execFrame_next {s : State} {T : Nat} {f : FrameReading} (hT : PulseEnds s T)
    (hf : readFrame s.chan s.pos s.bp10 = some f) (hpos : s.pos < f.resume) (hfits : s.fits f.resume = true)
    (hv : s.fits (frameValue s.cfg s.bp10 f) = true) (hr : s.sink.ready = true) :
    execFrame s = .next (State.emitted { s with pos := f.resume }
      { start := s.pos, last := f.resume - 1, flags := frameFlags s.cfg f,
        value := frameValue s.cfg s.bp10 f }).stepped := by
  obtain ⟨hp, hn⟩ := hT
  rw [execFrame, observe_some hp hn, hf]
  exact finishEmit_next (by simpa using hfits) (by omega) (State.fits_of_le s (by omega) hfits)
    (State.fits_of_le s (by omega) hfits) hv hr

/-- The flags of a frame without a framing error, by its parity bit (R185, R188). -/
theorem dataFlags_of_parity (byte : Byte) (parity : Level) :
    dataFlags (parityError byte parity) false =
      if parity = (if popcount byte % 2 = 1 then .high else .low) then 0x0008#16 else 0x0108#16 := by
  rw [parityError_eq]
  by_cases h : parity = if popcount byte % 2 = 1 then .high else .low
  · rw [if_pos h, decide_eq_true h]
    rfl
  · rw [if_neg h, decide_eq_false h]
    rfl

/-- Settles O52: the bit centres lie inside their intervals, so FRAME reads what the intervals carry, and it resumes at the
frame's end. -/
theorem frameRoundTrip : Obligations.FrameRoundTrip := by
  intro s T P byte bit hT hl hw hP hbp hcfg hlevels _ hbits h10 h11 hsup hfits hready
  have hb : CleanBits s.chan s.pos P bit := hlevels
  have hread := hb.readFrame_eq hw hP hbits h10 h11 hsup
  rw [← hbp] at hread
  have hstep := execFrame_next hT hread (by simp only; omega) hfits
    (by rw [frameValue_of_not_retag hcfg]; exact State.fits_byte hl byte) hready
  rw [frameFlags_of_not_retag hcfg, frameValue_of_not_retag hcfg, dataFlags_of_parity] at hstep
  exact hstep

end Sys2Proof.Machine
end

section
/-! What the operation map says of the fields of a key that selects an operation (R90), and so of the state in which the
engine runs one. -/

namespace Sys2Proof

section
variable (first : Bool) (phase : Phase) (k : BitVec 4) (level : Level) (cls : BitVec 3)

/-- Bit `n` of a packed key lies in the class, the level, `k`, the phase or `first`, from the lowest up (R88). -/
theorem getLsbD_packKey {n : Nat} (hn : n < 10) : (packKey first phase k level cls).getLsbD n =
    if n < 3 then cls.getLsbD n else
      if n < 4 then level.isHigh else
        if n < 8 then k.getLsbD (n - 4) else
          if n < 9 then phase.isSync else first := by
  unfold packKey
  change BitVec.getLsbD (w := 1 + 1 + 4 + 1 + 3) _ n = _
  have hfirst : decide (n - 3 - 1 - 4 - 1 = 0) = true := by simp; omega
  simp only [BitVec.getLsbD_append, BitVec.getLsbD_ofBool, hfirst]
  grind

@[simp] theorem keyFirst_packKey : keyFirst (packKey first phase k level cls) = first :=
  getLsbD_packKey first phase k level cls (n := 9) (by decide)

@[simp] theorem keyPhase_packKey : keyPhase (packKey first phase k level cls) = phase := by
  rw [keyPhase, getLsbD_packKey first phase k level cls (by decide)]
  cases phase <;> rfl

@[simp] theorem keyLevel_packKey : keyLevel (packKey first phase k level cls) = level := by
  rw [keyLevel, getLsbD_packKey first phase k level cls (by decide)]
  cases level <;> rfl

@[simp] theorem keyK_packKey : keyK (packKey first phase k level cls) = k := by
  refine BitVec.eq_of_getLsbD_eq fun i hi => ?_
  rw [keyK, BitVec.getLsbD_extractLsb', getLsbD_packKey first phase k level cls (by omega)]
  grind

@[simp] theorem keyCls_packKey : keyCls (packKey first phase k level cls) = cls := by
  refine BitVec.eq_of_getLsbD_eq fun i hi => ?_
  rw [keyCls, BitVec.getLsbD_extractLsb', getLsbD_packKey first phase k level cls (by omega)]
  grind
end

@[simp] theorem WidthClass.ofBits_bits (cls : WidthClass) : WidthClass.ofBits cls.bits = some cls := by
  cases cls <;> rfl

/-- The decoder finds in a packed key the fields that were packed (R88). -/
theorem decodeKey_packKey (first : Bool) (phase : Phase) (k : BitVec 4) (level : Level) (cls : WidthClass) :
    decodeKey (packKey first phase k level cls.bits) = decodeFields first phase k level cls := by
  simp [decodeKey]

/-- What an operation's row asks of the key's fields, as far as the invariants need it (R90). -/
def Instr.Row (first : Bool) (phase : Phase) (k : BitVec 4) (level : Level) (cls : WidthClass) : Instr → Prop
  | .initBreak _ | .idleU _ _ => phase = .unsynchronized ∧ k = 0#4
  | .syncStart => phase = .unsynchronized ∧ level = .low
  | .breakU _ => phase = .unsynchronized
  | .syncBit _ => phase = .unsynchronized ∧ 1 ≤ k.toNat ∧ k.toNat ≤ 7 ∧ level = patternLevel k
  | .syncPair => phase = .unsynchronized ∧ k = 8#4 ∧ level = .low
  | .syncDone => phase = .unsynchronized ∧ k = 9#4 ∧ level = .high
  | .syncFailNarrow _ _ | .syncFailWide _ _ | .syncFailWrongLevel _ _ => phase = .unsynchronized ∧ 1 ≤ k.toNat
  | .idleS _ | .frame => phase = .synchronized ∧ k = 0#4
  | .breakS => phase = .synchronized
  | .resync => first = false ∧ phase = .synchronized ∧ k = 0#4 ∧ level = .low ∧ cls = .narrow
  | .halt => False

variable {first : Bool} {k : BitVec 4} {level : Level} {cls : WidthClass} {i : Instr}

/-- The rows of Idle-wait (R90). -/
theorem decodeIdleWait_row (h : decodeIdleWait first level cls = .ok i) :
    i.Row first .unsynchronized 0#4 level cls := by
  unfold decodeIdleWait at h
  split at h
  · cases h
    exact ⟨rfl, rfl⟩
  · split at h
    · cases h
      exact ⟨rfl, rfl⟩
    · cases cls with
      | ok => cases h; exact ⟨rfl, rfl⟩
      | long => cases h; rfl
      | narrow | wide | wrongLevel => cases h

/-- The rows of Sync-training (R90). -/
theorem decodeTraining_row (hk : 1 ≤ k.toNat) (hk9 : k.toNat ≤ 9) (h : decodeTraining k level cls = .ok i) :
    i.Row first .unsynchronized k level cls := by
  cases cls with
  | narrow | wide | wrongLevel => cases h; exact ⟨rfl, hk⟩
  | long =>
    simp only [decodeTraining] at h
    split at h
    · cases h; rfl
    · cases h
  | ok =>
    simp only [decodeTraining] at h
    split at h
    · cases h
    · rename_i hlevel
      rw [Classical.not_not] at hlevel
      split at h
      · cases h
        exact ⟨rfl, hk, ‹_›, hlevel⟩
      · split at h
        · obtain rfl : k = 8#4 := BitVec.eq_of_toNat_eq ‹_›
          cases h
          exact ⟨rfl, rfl, hlevel⟩
        · obtain rfl : k = 9#4 := BitVec.eq_of_toNat_eq (by simp; omega)
          cases h
          exact ⟨rfl, rfl, hlevel⟩

/-- The rows of Frame-decode (R90). -/
theorem decodeFrameDecode_row (h : decodeFrameDecode level cls = .ok i) :
    i.Row false .synchronized 0#4 level cls := by
  unfold decodeFrameDecode at h
  split at h
  · cases h
    exact ⟨rfl, rfl⟩
  · cases cls with
    | ok => cases h; exact ⟨rfl, rfl⟩
    | narrow => cases h; exact ⟨rfl, rfl, rfl, rfl, rfl⟩
    | long => cases h; rfl
    | wide | wrongLevel => cases h

/-- The fields of a key that decodes lie in the row of its operation (R90). -/
theorem decodeFields_row {phase : Phase} (h : decodeFields first phase k level cls = .ok i) :
    i.Row first phase k level cls := by
  cases phase with
  | unsynchronized =>
    simp only [decodeFields] at h
    split at h
    · subst k
      exact decodeIdleWait_row h
    · rename_i hk
      have hk1 : 1 ≤ k.toNat := by
        rw [Nat.one_le_iff_ne_zero]
        exact fun h0 => hk (BitVec.eq_of_toNat_eq h0)
      split at h
      · cases h
      · split at h
        · exact decodeTraining_row hk1 ‹_› h
        · cases h
  | synchronized =>
    simp only [decodeFields] at h
    split at h
    · cases h
    · rename_i hfirst
      obtain rfl : first = false := by simpa using hfirst
      split at h
      · subst k
        exact decodeFrameDecode_row h
      · cases h

end Sys2Proof

namespace Sys2Proof.Machine

/-- The engine is selected to run `i` on the pulse at the cursor, which ends at `T` and has class `cls` (R110). -/
structure Selects (s : State) (T : Nat) (cls : WidthClass) (i : Instr) : Prop where
  start : s.params.captureStart ≤ s.pos
  pulse : s.chan.nextT s.pos = some T
  class_eq : classify s (s.chan.level s.pos) (T - s.pos) = some cls
  row : i.Row s.first s.phase s.k (s.chan.level s.pos) cls

/-- The engine runs HALT, or an operation whose row the state is in. -/
theorem fetch_selects {s : State} {i : Instr} (h : fetch s = .runs i) :
    i = .halt ∨ ∃ T cls, Selects s T cls i := by
  obtain ⟨-, -, rfl⟩ | ⟨-, -, hstart, T, key, hT, hkey, hi⟩ := fetch_runs h
  · exact .inl rfl
  · obtain ⟨cls, hcls, rfl⟩ := Option.map_eq_some_iff.1 hkey
    rw [decode, decodeKey_packKey] at hi
    exact .inr ⟨T, cls, hstart, hT, hcls, decodeFields_row hi⟩

end Sys2Proof.Machine
end

section
/-! What an operation can do, said once: it leaves the state as it is, halts the engine, or writes its registers, moves the
cursor to its resume point and leaves a stream and a sink behind. -/

namespace Sys2Proof.Machine

/-- The registers other than the cursor that an operation on the pulse from `s.pos` to `T` writes (R21 to R25, R138). -/
def writes (s : State) (T : Nat) : Instr → State
  | .initBreak _ | .idleU _ _ | .idleS _ | .frame | .halt => s
  | .syncStart => { s with origin := s.pos, prov := T - s.pos, k := 1#4 }
  | .breakU _ | .syncFailNarrow _ _ | .syncFailWide _ _ | .syncFailWrongLevel _ _ => { s with k := 0#4 }
  | .syncBit _ => { s with k := s.k + 1#4 }
  | .syncPair => { s with k := 9#4 }
  | .syncDone => { s with bp10 := s.pos - s.origin, phase := .synchronized, k := 0#4 }
  | .breakS | .resync => { s with phase := .unsynchronized, k := 0#4 }

/-- The cursor moves to `R` when an operation on the pulse that ends at `T` completes (R110, R157, R182, R183). -/
def Resumes (s : State) (T R : Nat) : Instr → Prop
  | .resync => R = s.pos
  | .syncDone => s.fits R = true ∧ R = syncResume s.pos (s.pos - s.origin) T
  | .frame => s.fits R = true ∧ ∃ f, readFrame s.chan s.pos s.bp10 = some f ∧ R = f.resume
  | _ => s.fits R = true ∧ R = T

/-- The state `t` after an operation has completed on the pulse at the cursor of `s`. -/
def Completes (i : Instr) (s t : State) : Prop :=
  ∃ T R events sink, s.chan.nextT s.pos = some T ∧ Resumes s T R i ∧
    t = { writes s T i with pos := R, first := false, events := events, sink := sink }

variable {i : Instr} {s s' t : State} {T : Nat} {flags : FlagWord}

/-- An operation that reports its pulse and changes the state completed. -/
theorem reportPulse_completes (hw : ∀ T, writes s T i = s') (hR : ∀ T, s.fits T = true → Resumes s T T i)
    (h : reportPulse s s' flags = .next t) : t = s ∨ Completes i s t := by
  obtain rfl | ⟨T, hT, hf, rfl⟩ := reportPulse_cases h
  · exact .inl rfl
  · exact .inr ⟨T, T, _, _, hT, hR T hf, by rw [hw]; rfl⟩

/-- A failed match that changes the state completed. -/
theorem failPattern_completes (hw : ∀ T, writes s T i = { s with k := 0#4 })
    (hR : ∀ T, s.fits T = true → Resumes s T T i) (h : failPattern s flags = .next t) : t = s ∨ Completes i s t := by
  obtain rfl | ⟨T, hT, hf, ⟨-, -, rfl⟩ | ⟨-, rfl⟩⟩ := failPattern_cases h
  · exact .inl rfl
  · exact .inr ⟨T, T, _, _, hT, hR T hf, by rw [hw]; rfl⟩
  · exact .inr ⟨T, T, s.events, s.sink, hT, hR T hf, by rw [hw]; rfl⟩

/-- An operation on a pulse that emits nothing and changes the state completed. -/
theorem finish_completes {stored : Nat → List Nat} {after : Nat → State}
    (hdone : ∀ T, (∀ v ∈ stored T, s.fits v = true) → ∃ R, Resumes s T R i ∧
      (after T).stepped = { writes s T i with pos := R, first := false, events := s.events, sink := s.sink })
    (h : observe s (fun T => finish s (after T) (stored T)) = .next t) : t = s ∨ Completes i s t := by
  obtain ⟨-, ⟨-, rfl⟩ | ⟨T, hT, hb⟩⟩ := observe_cases h
  · exact .inl rfl
  · obtain ⟨hs, rfl⟩ := finish_cases hb
    obtain ⟨R, hR, hafter⟩ := hdone T hs
    exact .inr ⟨T, R, _, _, hT, hR, hafter⟩

/-- SYNC.DONE that changes the state completed. -/
theorem execSyncDone_completes (h : execSyncDone s = .next t) : t = s ∨ Completes .syncDone s t := by
  obtain rfl | ⟨T, hT, -, -, hf, -, -, rfl⟩ := execSyncDone_cases h
  · exact .inl rfl
  · exact .inr ⟨T, _, _, _, hT, ⟨hf, rfl⟩, rfl⟩

/-- FRAME that changes the state completed. -/
theorem execFrame_completes (h : execFrame s = .next t) : t = s ∨ Completes .frame s t := by
  obtain rfl | ⟨T, f, hT, hread, hf, -, -, -, rfl⟩ := execFrame_cases h
  · exact .inl rfl
  · exact .inr ⟨T, _, _, _, hT, ⟨hf, f, hread, rfl⟩, rfl⟩

/-- An operation other than HALT that changes the state completed. -/
theorem exec_completes (hi : i ≠ .halt) (h : exec i s = .next t) : t = s ∨ Completes i s t := by
  cases i with
  | halt => exact absurd rfl hi
  | initBreak | idleU | idleS | breakU | breakS =>
    exact reportPulse_completes (fun _ => rfl) (fun _ hf => ⟨hf, rfl⟩) h
  | syncFailNarrow | syncFailWide | syncFailWrongLevel =>
    exact failPattern_completes (fun _ => rfl) (fun _ hf => ⟨hf, rfl⟩) h
  | syncStart | syncBit | syncPair => exact finish_completes (fun T hs => ⟨T, ⟨hs T (by simp), rfl⟩, rfl⟩) h
  | resync => exact finish_completes (fun _ _ => ⟨s.pos, rfl, rfl⟩) h
  | syncDone => exact execSyncDone_completes h
  | frame => exact execFrame_completes h

/-- HALT sets `halted` and nothing else (R117). -/
theorem exec_halt (s : State) : exec .halt s = .next { s with halted := true } :=
  rfl

/-- Everything an operation can do when it answers a next state: it blocked or waited, it was HALT, or it completed. -/
theorem exec_cases (h : exec i s = .next t) :
    t = s ∨ (i = .halt ∧ t = { s with halted := true }) ∨ Completes i s t := by
  by_cases hi : i = .halt
  · subst hi
    rw [exec_halt] at h
    cases h
    exact .inr (.inl ⟨rfl, rfl⟩)
  · exact (exec_completes hi h).imp_right .inr

/-- Settles O33: what an operation writes is a register, the stream or the sink, and only HALT writes `halted`. -/
theorem operationsKeepInputs : Obligations.OperationsKeepInputs := by
  intro i s t h
  obtain rfl | ⟨rfl, rfl⟩ | ⟨T, R, _, _, -, -, rfl⟩ := exec_cases h
  · exact ⟨rfl, rfl, rfl, rfl, rfl, fun _ => rfl, .inl rfl⟩
  · exact ⟨rfl, rfl, rfl, rfl, rfl, fun _ => rfl, .inr ⟨rfl, rfl⟩⟩
  · cases i <;> exact ⟨rfl, rfl, rfl, rfl, rfl, fun _ => rfl, .inl rfl⟩

/-- Settles O34: the registers that an operation writes are those of `writes`. -/
theorem operationsWriteOnlyTheirRegisters : Obligations.OperationsWriteOnlyTheirRegisters := by
  intro i s t h
  obtain rfl | ⟨rfl, rfl⟩ | ⟨T, R, _, _, -, -, rfl⟩ := exec_cases h
  · simp
  · simp
  · cases i <;> simp [writes]

end Sys2Proof.Machine
end

section
/-! Where the cursor can land: at a transition, or at a HIGH sample (R34 (f)), with every sample up to it supplied. -/

namespace Sys2Proof.Machine

variable {c : Channel} {start n m T : Nat}

/-- The level stays the same up to the next transition (R52, R53). -/
theorem Channel.level_of_lt_nextT (hw : c.Wf start) (hT : c.nextT n = some T) (hn : n ≤ m) (hm : m < T) :
    c.level m = c.level n := by
  have hnone : c.crossed n m = 0 := by
    rw [c.crossed_eq_zero_iff]
    rintro t ht ⟨hlo, hhi⟩
    have := Channel.nextT_le hw hT ht hlo
    omega
  rw [c.level_of_crossed hn, hnone]
  rfl

/-- The next transition changes the level (R51, R53). -/
theorem Channel.level_nextT (hw : c.Wf start) (hT : c.nextT n = some T) : c.level T = (c.level n).flip := by
  have := Channel.lt_nextT hT
  rw [Channel.level_of_mem hw (Channel.nextT_mem hT), Channel.level_of_lt_nextT hw hT (by omega) (by omega)]

/-- A sample at which the cursor may stand: supplied, and a transition if the line is LOW there (R34 (f), R57). -/
structure Lands (start : Nat) (c : Channel) (R : Nat) : Prop where
  from_start : start ≤ R
  supplied : c.supplied R = true
  low_at_edge : c.level R = .low → R ∈ c.edges

/-- The cursor may stand at the next transition. -/
theorem Lands.nextT (hw : c.Wf start) (hn : start ≤ n) (hT : c.nextT n = some T) : Lands start c T where
  from_start := Nat.le_of_lt (Nat.lt_of_le_of_lt hn (Channel.lt_nextT hT))
  supplied := Channel.nextT_supplied hw hT
  low_at_edge := fun _ => Channel.nextT_mem hT

/-- SYNC.DONE leaves the cursor inside the HIGH pulse or at its end (R157). -/
theorem Lands.syncResume (hw : c.Wf start) (hn : start ≤ n) (hT : c.nextT n = some T) (hhigh : c.level n = .high)
    (b : Nat) : Lands start c (syncResume n b T) := by
  have hpos := Channel.lt_nextT hT
  by_cases hend : T ≤ n + b / 5
  · rw [Machine.syncResume, Nat.min_eq_left hend]
    exact Lands.nextT hw hn hT
  · rw [Machine.syncResume, Nat.min_eq_right (by omega)]
    refine ⟨by omega, Channel.supplied_of_le (by omega) (Channel.nextT_supplied hw hT), fun hlow => ?_⟩
    rw [Channel.level_of_lt_nextT hw hT (by omega) (by omega), hhigh] at hlow
    cases hlow

/-- The two ways in which the resume point of a frame is stated agree (R183, R187). -/
theorem frameResumesAt_iff_frameResume (s : State) (R : Nat) : FrameResumesAt s R ↔
    s.chan.supplied (bitCentre s.pos s.bp10 11) = true ∧ frameResume s.chan s.pos s.bp10 = some R := by
  have h11 : bitCentre s.pos s.bp10 11 = s.pos + 23 * s.bp10 / 20 := rfl
  have h12 : frameEnd s.pos s.bp10 = s.pos + 12 * s.bp10 / 10 := rfl
  rw [FrameResumesAt, frameResume, ← h11, ← h12]
  refine and_congr_right fun _ => ?_
  cases s.chan.level (bitCentre s.pos s.bp10 11) with
  | low => simp
  | high => grind

/-- FRAME reads a frame that ends at `R` exactly where the frame resumes at `R` (R183). -/
theorem frameResumesAt_iff_readFrame (s : State) (R : Nat) :
    FrameResumesAt s R ↔ ∃ f, readFrame s.chan s.pos s.bp10 = some f ∧ R = f.resume := by
  rw [frameResumesAt_iff_frameResume, readFrame]
  cases s.chan.supplied (bitCentre s.pos s.bp10 11) with
  | false => simp
  | true => simp [eq_comm]

/-- FRAME leaves the cursor at a transition or at the frame's end inside a HIGH pulse (R187). -/
theorem Lands.frame {s : State} {R : Nat} (hw : s.ChanWf) (hp : s.params.captureStart ≤ s.pos)
    (hR : FrameResumesAt s R) : Lands s.params.captureStart s.chan R := by
  obtain ⟨-, ⟨-, hT⟩ | ⟨-, -, -, hT⟩ | ⟨hhigh, hsup, hcrossed, rfl⟩⟩ := hR
  · exact Lands.nextT hw (by omega) hT
  · exact Lands.nextT hw (by omega) hT
  · refine ⟨by omega, hsup, fun hlow => ?_⟩
    rw [s.chan.level_of_crossed (by omega : s.pos + 23 * s.bp10 / 20 ≤ _), hcrossed, if_pos rfl, hhigh] at hlow
    cases hlow

/-- With a locked bit period the cursor resumes after the frame's first sample (R116). -/
theorem FrameResumesAt.lt {s : State} {R : Nat} (hb : 1 ≤ s.bp10) (hR : FrameResumesAt s R) : s.pos < R := by
  obtain ⟨-, ⟨-, hT⟩ | ⟨-, -, -, hT⟩ | ⟨-, -, -, rfl⟩⟩ := hR
  · have := Channel.lt_nextT hT
    omega
  · have := Channel.lt_nextT hT
    omega
  · omega

end Sys2Proof.Machine
end

section
/-! The engine's invariant: it holds after reset, the host and HALT change only the environment, and an operation that
completes lands the cursor well and keeps what the invariant says of the registers. -/

namespace Sys2Proof.Machine

variable {s t : State} {i : Instr} {T R : Nat} {cls : WidthClass} {cfg : CfgWord} {events : List Event} {sink : Sink}

/-- With legal parameters the cursor can hold the starting sample (R7). -/
theorem State.fits_captureStart (hl : s.params.Legal) : s.fits s.params.captureStart = true :=
  (State.fits_iff s _).2 hl.2

/-- Zero fits in every width. -/
theorem State.fits_zero (s : State) : s.fits 0 = true :=
  (State.fits_iff s 0).2 (Nat.two_pow_pos _)

/-- A reset gives a state that meets the engine's invariant (R34, R36). -/
theorem engineInvariant_restarted (hl : s.params.Legal) (hcfg : cfgLegal cfg = true) (l0 : Level) :
    EngineInvariant (s.restarted cfg l0) where
  r34 :=
    { syncNoPattern := fun _ => rfl
      syncPeriod := fun h => nomatch h
      trainingPeriod := fun h => absurd h (by simp)
      position := Nat.zero_le 9
      firstStep := fun _ => ⟨rfl, rfl, rfl⟩
      lowAtEdge := fun h => nomatch h }
  legal := hl
  cfgReserved := hcfg
  chanWf := Channel.wf_restarted l0 _
  posStart := Nat.le_refl _
  posSupplied := by simp [Channel.supplied]
  posFits := State.fits_captureStart hl
  originFits := State.fits_zero s
  provFits := State.fits_zero s
  bp10Fits := State.fits_zero s
  patternSpan := fun h => absurd h (by simp)
  patternEdge := fun h => absurd h (by simp)

/-- Settles O41: the machine's reset state is what a reset gives, and its stream is empty. -/
theorem resetMeetsInvariants : Obligations.ResetMeetsInvariants :=
  ⟨engineInvariant_restarted (s := State.reset) (cfg := 0#32) (by decide) (by decide) .high,
    { ordered := .nil
      ranges := fun _ h => nomatch h
      flagSets := fun _ h => nomatch h
      fields := fun _ h => nomatch h
      dataBytes := fun _ h => nomatch h }⟩

/-- A configuration word below 16 has its reserved bits 0 (R87). -/
theorem cfgLegal_of_lt (h : cfg.toNat < 16) : cfgLegal cfg = true := by
  have : cfg >>> 4 = 0#32 := by
    apply BitVec.eq_of_toNat_eq
    simp [Nat.shiftRight_eq_div_pow]
    omega
  simp [cfgLegal, this]

/-- Settles O36: with a legal word and legal parameters the two checks of reset pass. -/
theorem resetWritesEveryRegister : Obligations.ResetWritesEveryRegister := by
  intro s cfg l0 hcfg hl
  rw [hostTurn, resetOp, if_pos (cfgLegal_of_lt hcfg), if_pos (State.fits_captureStart hl)]
  rfl

/-- Settles O38: the fields by definition, and a reset of the reset state gives it again. -/
theorem resetStateValues : Obligations.ResetStateValues :=
  ⟨rfl, rfl, rfl, rfl, rfl, rfl, rfl, rfl, rfl, rfl, rfl, rfl,
    resetWritesEveryRegister State.reset 0#32 .high (by decide) (by decide)⟩

/-- The engine's invariant survives every change of the environment that keeps the channel canonical, supplied at the cursor,
at its level there, and its transition there. -/
theorem EngineInvariant.of_environment (h : EngineInvariant s) {c : Channel} {sink : Sink} {cancel halted : Bool}
    {turns : List Turn} (hw : c.Wf s.params.captureStart) (hsup : c.supplied s.pos = true)
    (hlevel : c.level s.pos = s.chan.level s.pos) (hedge : s.pos ∈ s.chan.edges → s.pos ∈ c.edges) :
    EngineInvariant { s with chan := c, sink := sink, cancel := cancel, halted := halted, turns := turns } where
  r34 :=
    { syncNoPattern := h.r34.syncNoPattern
      syncPeriod := h.r34.syncPeriod
      trainingPeriod := h.r34.trainingPeriod
      position := h.r34.position
      firstStep := h.r34.firstStep
      lowAtEdge := fun hf hlow => hedge (h.r34.lowAtEdge hf (hlevel.symm.trans hlow)) }
  legal := h.legal
  cfgReserved := h.cfgReserved
  chanWf := hw
  posStart := h.posStart
  posSupplied := hsup
  posFits := h.posFits
  originFits := h.originFits
  provFits := h.provFits
  bp10Fits := h.bp10Fits
  patternSpan := h.patternSpan
  patternEdge := fun hk => by
    obtain ⟨hmem, hpat⟩ := h.patternEdge hk
    exact ⟨hedge hmem, hlevel.trans hpat⟩

/-- A change of the inputs, of `halted` and of the turns that are left keeps the engine's invariant. -/
theorem EngineInvariant.of_inputs (h : EngineInvariant s) {sink : Sink} {cancel halted : Bool} {turns : List Turn} :
    EngineInvariant { s with sink := sink, cancel := cancel, halted := halted, turns := turns } :=
  h.of_environment h.chanWf h.posSupplied rfl id

/-- Every turn of the host keeps the engine's invariant (R67, R230). -/
theorem hostTurn_keeps_invariant {a : HostAction} (h : EngineInvariant s) (ht : hostTurn a s = .next t) :
    EngineInvariant t := by
  cases a with
  | reset cfg l0 =>
    obtain ⟨hcfg, -, rfl⟩ := resetOp_cases ht
    exact engineInvariant_restarted h.legal hcfg l0
  | supplyEdge u =>
    obtain rfl | ⟨hu, rfl⟩ := supplyEdge_cases ht
    · exact h
    · have hlt := Channel.lt_of_unsupplied h.posSupplied hu
      exact h.of_environment (Channel.wf_supplyEdge h.chanWf hu) (by simpa [Channel.supplied] using hlt.le)
        (Channel.level_append _ hlt) (List.mem_append_left _)
  | supplyQuiet n =>
    obtain rfl | ⟨hn, rfl⟩ := supplyQuiet_cases ht
    · exact h
    · have hlt := Channel.lt_of_unsupplied h.posSupplied hn
      exact h.of_environment (Channel.wf_supplyQuiet h.chanWf hn) (by simpa [Channel.supplied] using hlt.le) rfl id
  | supplyRest =>
    cases ht
    exact h.of_environment (Channel.wf_supplyRest h.chanWf) rfl rfl id
  | setCancel | setSink =>
    cases ht
    exact h.of_inputs
  | presentCfg | moveCursor | alterSample =>
    simp only [hostTurn] at ht
    split at ht <;> cases ht
    exact h

/-- What the engine's invariant says of the pattern registers and the bit period. -/
structure PatternInvariant (s : State) : Prop where
  syncNoPattern : s.phase = .synchronized → s.k = 0#4
  syncPeriod : s.phase = .synchronized → 9 ≤ s.bp10
  position : s.k.toNat ≤ 9
  originFits : s.fits s.origin = true
  provFits : s.fits s.prov = true
  bp10Fits : s.fits s.bp10 = true
  pattern : 1 ≤ s.k.toNat → 1 ≤ s.prov ∧ s.params.captureStart ≤ s.origin ∧ s.origin + s.k.toNat ≤ s.pos ∧
    s.pos ∈ s.chan.edges ∧ s.chan.level s.pos = patternLevel s.k

/-- With no pattern in progress only the bit period counts. -/
theorem PatternInvariant.of_idle (hk : s.k = 0#4) (hperiod : s.phase = .synchronized → 9 ≤ s.bp10)
    (ho : s.fits s.origin = true) (hp : s.fits s.prov = true) (hb : s.fits s.bp10 = true) : PatternInvariant s where
  syncNoPattern := fun _ => hk
  syncPeriod := hperiod
  position := by simp [hk]
  originFits := ho
  provFits := hp
  bp10Fits := hb
  pattern := fun h => absurd h (by simp [hk])

/-- The engine's invariant after a step: the registers are in order and the cursor has landed. -/
theorem EngineInvariant.of_step (h : EngineInvariant s)
    (ht : t = { s with
      phase := t.phase, k := t.k, origin := t.origin, prov := t.prov, bp10 := t.bp10, first := false, pos := t.pos,
      events := t.events, sink := t.sink })
    (hpat : PatternInvariant t) (hland : Lands s.params.captureStart s.chan t.pos) (hfits : s.fits t.pos = true) :
    EngineInvariant t := by
  have hparams : t.params = s.params := by rw [ht]
  have hchan : t.chan = s.chan := by rw [ht]
  have hcfg : t.cfg = s.cfg := by rw [ht]
  have hfirst : t.first = false := by rw [ht]
  rw [← hparams, ← hchan] at hland
  exact {
    r34 :=
      { syncNoPattern := hpat.syncNoPattern
        syncPeriod := hpat.syncPeriod
        trainingPeriod := fun hk _ => by
          obtain ⟨hprov, -, hspan, -, -⟩ := hpat.pattern hk
          exact ⟨hprov, by omega⟩
        position := hpat.position
        firstStep := fun hf => by simp [hfirst] at hf
        lowAtEdge := fun _ => hland.low_at_edge }
    legal := hparams ▸ h.legal
    cfgReserved := hcfg ▸ h.cfgReserved
    chanWf := by
      rw [hchan, hparams]
      exact h.chanWf
    posStart := hland.from_start
    posSupplied := hland.supplied
    posFits := by
      rw [State.fits, hparams]
      exact hfits
    originFits := hpat.originFits
    provFits := hpat.provFits
    bp10Fits := hpat.bp10Fits
    patternSpan := fun hk => by
      obtain ⟨-, horigin, hspan, -, -⟩ := hpat.pattern hk
      exact ⟨horigin, hspan⟩
    patternEdge := fun hk => by
      obtain ⟨-, -, -, hedge, hlevel⟩ := hpat.pattern hk
      exact ⟨hedge, hlevel⟩ }

/-- Neighbouring pattern positions have opposite levels (R150). -/
theorem patternLevel_succ : ∀ k : BitVec 4, patternLevel (k + 1#4) = (patternLevel k).flip := by
  decide

/-- Where an operation resumes the cursor may stand. -/
theorem EngineInvariant.lands (h : EngineInvariant s) (hsel : Selects s T cls i) (hR : Resumes s T R i) :
    Lands s.params.captureStart s.chan R := by
  obtain ⟨hstart, hT, -, hrow⟩ := hsel
  cases i with
  | halt => exact hrow.elim
  | resync =>
    obtain ⟨hfirst, -⟩ := hrow
    cases hR
    exact ⟨hstart, h.posSupplied, h.r34.lowAtEdge hfirst⟩
  | syncDone =>
    obtain ⟨-, -, hhigh⟩ := hrow
    obtain ⟨-, rfl⟩ := hR
    exact Lands.syncResume h.chanWf hstart hT hhigh _
  | frame =>
    exact Lands.frame h.chanWf hstart ((frameResumesAt_iff_readFrame s R).2 hR.2)
  | _ =>
    obtain ⟨-, rfl⟩ := hR
    exact Lands.nextT h.chanWf hstart hT

/-- Where an operation resumes fits in the cursor (R33). -/
theorem EngineInvariant.fits_resume (h : EngineInvariant s) (hR : Resumes s T R i) : s.fits R = true := by
  cases i with
  | resync =>
    cases hR
    exact h.posFits
  | _ => exact hR.1

/-- The next position of a pattern is in order: one more pulse, and the opposite level (R154, R155). -/
theorem EngineInvariant.next_position (h : EngineInvariant s) (hphase : s.phase = .unsynchronized)
    (hk : 1 ≤ s.k.toNat) (hk8 : s.k.toNat ≤ 8) (hT : s.chan.nextT s.pos = some T) (ht : t = { s with
      k := s.k + 1#4, pos := T, first := t.first, events := t.events, sink := t.sink }) : PatternInvariant t := by
  rw [ht]
  have hlt := Channel.lt_nextT hT
  have hnext : (s.k + 1#4).toNat = s.k.toNat + 1 := by
    rw [BitVec.toNat_add]
    exact Nat.mod_eq_of_lt (by simp; omega)
  obtain ⟨horigin, hspan⟩ := h.patternSpan hk
  obtain ⟨-, hlevel⟩ := h.patternEdge hk
  obtain ⟨hprov, -⟩ := h.r34.trainingPeriod hk (by omega)
  exact {
    syncNoPattern := fun hs => by simp [hphase] at hs
    syncPeriod := fun hs => by simp [hphase] at hs
    position := by simp only [hnext]; omega
    originFits := h.originFits
    provFits := h.provFits
    bp10Fits := h.bp10Fits
    pattern := fun _ => by
      refine ⟨hprov, horigin, by simp only [hnext]; omega, Channel.nextT_mem hT, ?_⟩
      simp only [patternLevel_succ, ← hlevel]
      exact Channel.level_nextT h.chanWf hT }

/-- The first position of a pattern is in order: one LOW pulse (R152). -/
theorem EngineInvariant.first_position (h : EngineInvariant s) (hphase : s.phase = .unsynchronized)
    (hlow : s.chan.level s.pos = .low) (hT : s.chan.nextT s.pos = some T) (hf : s.fits T = true) (ht : t = { s with
      origin := s.pos, prov := T - s.pos, k := 1#4, pos := T, first := t.first, events := t.events, sink := t.sink }) :
    PatternInvariant t := by
  rw [ht]
  have hlt := Channel.lt_nextT hT
  exact {
    syncNoPattern := fun hs => by simp [hphase] at hs
    syncPeriod := fun hs => by simp [hphase] at hs
    position := by simp
    originFits := h.posFits
    provFits := State.fits_of_le s (Nat.sub_le T s.pos) hf
    bp10Fits := h.bp10Fits
    pattern := fun _ => by
      refine ⟨by simp only; omega, h.posStart, hlt, Channel.nextT_mem hT, ?_⟩
      simp only [Channel.level_nextT h.chanWf hT, hlow]
      decide }

/-- An operation that completes in its row leaves the pattern registers in order. -/
theorem EngineInvariant.completed_pattern (h : EngineInvariant s) (hsel : Selects s T cls i) (hR : Resumes s T R i) :
    PatternInvariant { writes s T i with pos := R, first := false, events := events, sink := sink } := by
  obtain ⟨-, hT, -, hrow⟩ := hsel
  have idle {p : Phase} {b : Nat} (hperiod : p = .synchronized → 9 ≤ b) (hb : s.fits b = true) : PatternInvariant
      { s with phase := p, k := 0#4, bp10 := b, pos := R, first := false, events := events, sink := sink } :=
    .of_idle rfl hperiod h.originFits h.provFits hb
  cases i with
  | halt => exact hrow.elim
  | initBreak | idleU | idleS | frame =>
    obtain ⟨-, hk⟩ := hrow
    exact .of_idle hk h.r34.syncPeriod h.originFits h.provFits h.bp10Fits
  | breakU | syncFailNarrow | syncFailWide | syncFailWrongLevel => exact idle h.r34.syncPeriod h.bp10Fits
  | breakS | resync => exact idle nofun h.bp10Fits
  | syncDone =>
    obtain ⟨-, hk, -⟩ := hrow
    have hspan := (h.patternSpan (by simp [hk])).2
    simp [hk] at hspan
    exact idle (b := s.pos - s.origin) (fun _ => by omega) (State.fits_of_le s (Nat.sub_le _ _) h.posFits)
  | syncStart =>
    obtain ⟨hphase, hlow⟩ := hrow
    obtain ⟨hf, rfl⟩ := hR
    exact h.first_position hphase hlow hT hf rfl
  | syncBit =>
    obtain ⟨hphase, hk, hk7, -⟩ := hrow
    obtain ⟨-, rfl⟩ := hR
    exact h.next_position hphase hk (by omega) hT rfl
  | syncPair =>
    obtain ⟨hphase, hk, -⟩ := hrow
    obtain ⟨-, rfl⟩ := hR
    refine h.next_position hphase (by simp [hk]) (by simp [hk]) hT ?_
    simp only [writes, hk]
    rfl

/-- The core's turn runs the operation it selects. -/
theorem coreTurn_runs (h : fetch s = .runs i) : coreTurn s = exec i s := by
  rw [coreTurn, h]

/-- Everything the core can do on its turn: wait, halt, or complete an operation whose row the state is in. -/
theorem coreTurn_cases (h : coreTurn s = .next t) :
    t = s ∨ t = { s with halted := true } ∨ ∃ T cls R i events sink, fetch s = .runs i ∧ Selects s T cls i ∧
      Resumes s T R i ∧ t = { writes s T i with pos := R, first := false, events := events, sink := sink } := by
  cases hf : fetch s with
  | waits =>
    simp only [coreTurn, hf] at h
    cases h
    exact .inl rfl
  | faults r => simp [coreTurn, hf] at h
  | runs i =>
    rw [coreTurn_runs hf] at h
    obtain rfl | ⟨T, cls, hsel⟩ := fetch_selects hf
    · rw [exec_halt] at h
      cases h
      exact .inr (.inl rfl)
    · obtain rfl | ⟨rfl, -⟩ | ⟨T', R, events, sink, hT, hR, rfl⟩ := exec_cases h
      · exact .inl rfl
      · exact hsel.row.elim
      · obtain rfl : T' = T := Option.some.inj (hT.symm.trans hsel.pulse)
        exact .inr (.inr ⟨T', cls, R, i, events, sink, rfl, hsel, hR, rfl⟩)

/-- Every turn of the core keeps the engine's invariant (R34). -/
theorem coreTurn_keeps_invariant (h : EngineInvariant s) (ht : coreTurn s = .next t) : EngineInvariant t := by
  obtain rfl | rfl | ⟨T, cls, R, i, events, sink, -, hsel, hR, rfl⟩ := coreTurn_cases ht
  · exact h
  · exact h.of_inputs
  · refine h.of_step ?_ (h.completed_pattern hsel hR) (h.lands hsel hR) (h.fits_resume hR)
    cases i <;> rfl

/-- Settles O42: whoever takes the turn, the core or the host, keeps the invariant, and taking the turn off the list does. -/
theorem stepKeepsEngineInvariant : Obligations.StepKeepsEngineInvariant := by
  intro s t h ht
  unfold step at ht
  split at ht
  · exact coreTurn_keeps_invariant h ht
  · exact coreTurn_keeps_invariant h.of_inputs ht
  · exact hostTurn_keeps_invariant h.of_inputs ht

end Sys2Proof.Machine
end

section
/-! Progress, and what cancellation does: what the core's turn can do, read off `coreTurn_cases` (R28, R116, R117). -/

namespace Sys2Proof.Machine

variable {s t : State} {i : Instr} {T R : Nat} {cls : WidthClass}

/-- Settles O28: a halted engine waits, and a pending cancellation selects HALT before the channel is looked at. -/
theorem cancellationHalts : Obligations.CancellationHalts := by
  intro s
  refine ⟨exec_halt s, fun hh hc => ?_, fun hh => ?_⟩
  · have hf : fetch s = .runs .halt := by simp [fetch, hh, hc]
    rw [coreTurn_runs hf, exec_halt]
  · simp [coreTurn, fetch, hh]

/-- Every operation but RESYNC resumes above the sample it started at (R28). -/
theorem EngineInvariant.lt_resume (h : EngineInvariant s) (hsel : Selects s T cls i) (hR : Resumes s T R i)
    (hi : i ≠ .resync) : s.pos < R := by
  obtain ⟨-, hT, -, hrow⟩ := hsel
  have hlt := Channel.lt_nextT hT
  cases i with
  | halt => exact hrow.elim
  | resync => exact absurd rfl hi
  | syncDone =>
    obtain ⟨-, hk, -⟩ := hrow
    obtain ⟨-, hspan⟩ := h.patternSpan (by simp [hk])
    simp only [hk, BitVec.toNat_ofNat] at hspan
    obtain ⟨-, rfl⟩ := hR
    exact Nat.lt_min.2 ⟨hlt, by omega⟩
  | frame =>
    obtain ⟨hphase, -⟩ := hrow
    have hperiod := h.r34.syncPeriod hphase
    exact FrameResumesAt.lt (by omega) ((frameResumesAt_iff_readFrame s R).2 hR.2)
  | _ =>
    obtain ⟨-, rfl⟩ := hR
    exact hlt

/-- RESYNC that goes on blocked, unchanged, or returned to Idle-wait (R182). -/
theorem execResync_cases (h : execResync s = .next t) :
    t = s ∨ t = State.stepped { s with phase := .unsynchronized, k := 0#4 } := by
  obtain ⟨-, ⟨-, rfl⟩ | ⟨T, -, hb⟩⟩ := observe_cases h
  · exact .inl rfl
  · exact .inr (finish_cases hb).2

/-- The engine runs the operation that the fields of its state select (R110). -/
theorem fetch_of_decodeFields (hh : s.halted = false) (hc : s.cancel = false) (hstart : s.params.captureStart ≤ s.pos)
    (hT : s.chan.nextT s.pos = some T) (hcls : classify s (s.chan.level s.pos) (T - s.pos) = some cls)
    (hi : decodeFields s.first s.phase s.k (s.chan.level s.pos) cls = .ok i) : fetch s = .runs i := by
  have hkey : dispatchKey s T = some (packKey s.first s.phase s.k (s.chan.level s.pos) cls.bits) := by
    rw [dispatchKey, hcls]
    rfl
  simp [fetch, hh, hc, Nat.not_lt.2 hstart, hT, selectKeyed, hkey, decode, decodeKey_packKey, hi]

/-- A pulse of another class than LONG, after the first step, is not longer than 13 bit periods (R136). -/
theorem not_isLong_of_classify {level : Level} {w : Nat} (hfirst : s.first = false) (hcls : cls ≠ .long)
    (h : classify s level w = some cls) : isLong s.bp10 level w = false := by
  cases hlong : isLong s.bp10 level w with
  | false => rfl
  | true =>
    simp only [classify, hfirst, hlong, Bool.false_eq_true, if_false, if_true] at h
    exact absurd (Option.some.inj h).symm hcls

/-- In Idle-wait a pulse that is not LONG is OK (R136). -/
theorem classify_idleWait {level : Level} {w : Nat} (hphase : s.phase = .unsynchronized) (hk : s.k = 0#4)
    (hlong : isLong s.bp10 level w = false) : classify s level w = some .ok := by
  simp [classify, hphase, hk, hlong]

/-- RESYNC hands the same pulse to SYNC.START (R116, R182). -/
theorem fetch_after_resync (h : fetch s = .runs .resync) :
    fetch { s with phase := .unsynchronized } = .runs .syncStart := by
  obtain ⟨-, -, hi⟩ | ⟨hh, hc, -⟩ := fetch_runs h
  · cases hi
  obtain hi | ⟨T, cls, hstart, hT, hcls, hfirst, -, hk, hlow, rfl⟩ := fetch_selects h
  · cases hi
  have hlong := not_isLong_of_classify hfirst (by decide) hcls
  refine fetch_of_decodeFields hh hc hstart hT (classify_idleWait rfl hk hlong) ?_
  simp only [hfirst, hk, hlow]
  rfl

/-- Settles O47: every other operation that completes resumes above its start, and RESYNC leads to SYNC.START. -/
theorem everyTurnProgresses : Obligations.EveryTurnProgresses := by
  intro s t h ht hne
  obtain rfl | rfl | ⟨T, cls, R, i, events, sink, hf, hsel, hR, rfl⟩ := coreTurn_cases ht
  · exact absurd rfl hne
  · exact .inl rfl
  · by_cases hi : i = .resync
    · subst hi
      rw [coreTurn_runs hf] at ht
      obtain ⟨hfirst, -, hk, -⟩ := hsel.row
      obtain hsame | hnext := execResync_cases ht
      · exact absurd hsame hne
      · have hphase : State.stepped { s with phase := .unsynchronized, k := 0#4 } =
            { s with phase := .unsynchronized } := by
          rw [hk, hfirst]
          rfl
        rw [hnext, hphase]
        exact .inr (.inr ⟨hf, rfl, fetch_after_resync hf⟩)
    · exact .inr (.inl (h.lt_resume hsel hR hi))

end Sys2Proof.Machine
end

section
/-! Overflow: a stored value that does not fit faults, whatever the sink (R33). -/

namespace Sys2Proof.Machine

variable {s s' : State} {i : Instr} {T R : Nat} {flags : FlagWord}

/-- A reported pulse whose end does not fit faults. -/
theorem reportPulse_overflow (hT : PulseEnds s T) (hf : s.fits T = false) :
    reportPulse s s' flags = .fault .indexOverflow := by
  rw [reportPulse, observe_some hT.1 hT.2]
  exact finishEmit_overflow (List.mem_singleton_self T) hf

/-- A failed match whose end does not fit faults, with and without a diagnostic event. -/
theorem failPattern_overflow (hT : PulseEnds s T) (hf : s.fits T = false) :
    failPattern s flags = .fault .indexOverflow := by
  rw [failPattern, observe_some hT.1 hT.2]
  split
  · exact finishEmit_overflow (List.mem_singleton_self T) hf
  · exact finish_overflow (List.mem_singleton_self T) hf

/-- Every operation that moves the cursor to the end of its pulse faults where that end does not fit. -/
theorem exec_overflow (hT : PulseEnds s T) (hf : s.fits T = false) (hdone : i ≠ .syncDone) (hresync : i ≠ .resync)
    (hframe : i ≠ .frame) (hhalt : i ≠ .halt) : exec i s = .fault .indexOverflow := by
  cases i with
  | initBreak | idleU | idleS | breakU | breakS => exact reportPulse_overflow hT hf
  | syncFailNarrow | syncFailWide | syncFailWrongLevel => exact failPattern_overflow hT hf
  | syncStart | syncBit | syncPair => exact (observe_some hT.1 hT.2).trans (finish_overflow (by simp) hf)
  | syncDone => exact absurd rfl hdone
  | resync => exact absurd rfl hresync
  | frame => exact absurd rfl hframe
  | halt => exact absurd rfl hhalt

/-- SYNC.DONE on a span below 0 faults (log entry 10). -/
theorem execSyncDone_negative (hT : PulseEnds s T) (h : s.pos < s.origin) :
    execSyncDone s = .fault .indexOverflow := by
  rw [execSyncDone, observe_some hT.1 hT.2, if_pos h]

/-- SYNC.DONE faults where its resume point does not fit. -/
theorem execSyncDone_overflow (hT : PulseEnds s T) (hf : s.fits (syncResume s.pos (s.pos - s.origin) T) = false) :
    execSyncDone s = .fault .indexOverflow := by
  by_cases h : s.pos < s.origin
  · exact execSyncDone_negative hT h
  · rw [execSyncDone, observe_some hT.1 hT.2, if_neg h]
    exact finishEmit_overflow (by simp) hf

/-- FRAME faults where its resume point does not fit. -/
theorem execFrame_overflow (hT : PulseEnds s T) (hR : FrameResumesAt s R) (hf : s.fits R = false) :
    execFrame s = .fault .indexOverflow := by
  obtain ⟨f, hread, rfl⟩ := (frameResumesAt_iff_readFrame s R).1 hR
  rw [execFrame, observe_some hT.1 hT.2, hread]
  exact finishEmit_overflow (List.mem_singleton_self _) hf

/-- Settles O32: each clause is the fault of one kind of operation. -/
theorem cursorOverflowFaults : Obligations.CursorOverflowFaults := by
  intro s T R i hT
  refine ⟨exec_overflow hT, ?_, execSyncDone_negative hT, fun hf hR => execFrame_overflow hT hR hf⟩
  rintro hf rfl
  exact execSyncDone_overflow hT hf

end Sys2Proof.Machine
end

section
/-! `origin` and `prov` while no pattern is in progress (R35): every function of the core and every turn of the host answers
alike on two states that differ only there. -/

namespace Sys2Proof.Machine

/-- The state with other values of the two registers that are dead while no pattern is in progress. -/
abbrev State.withDead (s : State) (o p : Nat) : State :=
  { s with origin := o, prov := p }

/-- Two results are alike: next states that differ only in dead registers, or the same fault or refusal (R35). -/
def Alike (x y : Result) : Prop :=
  (∃ s t, x = .next s ∧ y = .next t ∧ SameButDead s t) ∨ (∃ r, x = .fault r ∧ y = .fault r) ∨
    (∃ r, x = .refused r ∧ y = .refused r)

variable {s s' : State} {o p : Nat}

/-- With no pattern in progress the two registers may differ. -/
theorem SameButDead.of_idle {t : State} (hk : s.k = 0#4) (ht : t = { s with origin := t.origin, prov := t.prov }) :
    SameButDead s t :=
  ⟨ht, fun h => absurd h (by simp [hk])⟩

/-- A state agrees with itself. -/
theorem SameButDead.refl (s : State) : SameButDead s s :=
  ⟨rfl, fun _ => ⟨rfl, rfl⟩⟩

/-- States that differ only in dead registers are equal, or no pattern is in progress. -/
theorem SameButDead.cases {t : State} (h : SameButDead s t) : t = s ∨ (s.k = 0#4 ∧ ∃ o p, t = s.withDead o p) := by
  obtain ⟨ht, hsame⟩ := h
  by_cases hk : s.k = 0#4
  · exact .inr ⟨hk, _, _, ht⟩
  · have hk1 : 1 ≤ s.k.toNat := Nat.one_le_iff_ne_zero.2 fun h0 => hk (BitVec.eq_of_toNat_eq h0)
    obtain ⟨ho, hp⟩ := hsame hk1
    rw [ho, hp] at ht
    exact .inl ht

/-- A result is like itself. -/
theorem Alike.refl (x : Result) : Alike x x := by
  cases x with
  | next s => exact .inl ⟨s, s, rfl, rfl, .refl s⟩
  | fault r => exact .inr (.inl ⟨r, rfl, rfl⟩)
  | refused r => exact .inr (.inr ⟨r, rfl, rfl⟩)

/-- Next states that differ only in dead registers are alike. -/
theorem Alike.next {t : State} (h : SameButDead s t) : Alike (.next s) (.next t) :=
  .inl ⟨s, t, rfl, rfl, h⟩

/-- With no pattern in progress the two next states may differ in the dead registers. -/
theorem Alike.idle {t : State} (hk : s.k = 0#4) (ht : t = { s with origin := t.origin, prov := t.prov }) :
    Alike (.next s) (.next t) :=
  .next (.of_idle hk ht)

/-- A branch on a condition that reads no dead register keeps results alike when both its sides do. -/
theorem Alike.ite {c : Prop} [Decidable c] {x x' y y' : Result} (hx : Alike x x') (hy : Alike y y') :
    Alike (if c then x else y) (if c then x' else y') := by
  split
  · exact hx
  · exact hy

/-- The pulse at the cursor is found without the dead registers. -/
theorem observe_alike (hk : s.k = 0#4) {body body' : Nat → Result} (hbody : ∀ T, Alike (body T) (body' T)) :
    Alike (observe s body) (observe (s.withDead o p) body') := by
  refine Alike.ite (.refl _) ?_
  simp only
  cases s.chan.nextT s.pos with
  | none => exact .idle hk rfl
  | some T => exact hbody T

/-- The check of what is stored reads no dead register. -/
theorem finish_alike {t' : State} (hs' : SameButDead s'.stepped t'.stepped) (stored : List Nat) :
    Alike (finish s s' stored) (finish (s.withDead o p) t' stored) :=
  .ite (.next hs') (.refl _)

/-- Neither the check of what is emitted nor the sink reads a dead register. -/
theorem finishEmit_alike (hk : s.k = 0#4) (hk' : s'.k = 0#4) (stored : List Nat) (start stop : Nat) (flags : FlagWord)
    (value : Nat) : Alike (finishEmit s s' stored start stop flags value)
      (finishEmit (s.withDead o p) (s'.withDead o p) stored start stop flags value) := by
  have hrecord : (s.withDead o p).recordOf start stop flags value = s.recordOf start stop flags value := rfl
  rw [finishEmit, finishEmit, hrecord]
  cases s.recordOf start stop flags value with
  | none => exact .refl _
  | some e => exact .ite (.ite (.idle hk' rfl) (.idle hk rfl)) (.refl _)

/-- Reporting a pulse reads no dead register. -/
theorem reportPulse_alike (hk : s.k = 0#4) (hk' : s'.k = 0#4) (flags : FlagWord) :
    Alike (reportPulse s s' flags) (reportPulse (s.withDead o p) (s'.withDead o p) flags) :=
  observe_alike hk fun T => finishEmit_alike hk (s' := { s' with pos := T }) hk' _ _ _ _ _

/-- FRAME reads no dead register. -/
theorem execFrame_alike (hk : s.k = 0#4) : Alike (execFrame s) (execFrame (s.withDead o p)) := by
  refine observe_alike hk fun T => ?_
  simp only
  cases readFrame s.chan s.pos s.bp10 with
  | none => exact .idle hk rfl
  | some f => exact finishEmit_alike hk (s' := { s with pos := f.resume }) hk _ _ _ _ _

/-- An operation that the engine runs with no pattern in progress reads no dead register. -/
theorem exec_alike {T : Nat} {cls : WidthClass} {i : Instr} (hk : s.k = 0#4) (hsel : Selects s T cls i) :
    Alike (exec i s) (exec i (s.withDead o p)) := by
  have hrow := hsel.row
  rw [hk] at hrow
  cases i with
  | halt => exact hrow.elim
  | syncBit | syncPair | syncDone | syncFailNarrow | syncFailWide | syncFailWrongLevel =>
    simp [Instr.Row] at hrow
  | initBreak | idleU | idleS => exact reportPulse_alike hk hk _
  | breakU | breakS => exact reportPulse_alike hk rfl _
  | resync =>
    refine observe_alike hk fun _ => finish_alike ?_ _
    exact .of_idle rfl rfl
  | syncStart => exact observe_alike hk fun _ => finish_alike (.refl _) _
  | frame => exact execFrame_alike hk

/-- The dispatch reads no dead register. -/
theorem fetch_withDead (hk : s.k = 0#4) : fetch (s.withDead o p) = fetch s := by
  have hcls (level : Level) (w : Nat) : classify (s.withDead o p) level w = classify s level w := by
    simp [classify, hk]
  simp only [fetch, dispatchKey, hcls]

/-- With no pattern in progress the core's turn reads no dead register. -/
theorem coreTurn_alike (hk : s.k = 0#4) : Alike (coreTurn s) (coreTurn (s.withDead o p)) := by
  simp only [coreTurn, fetch_withDead hk]
  cases hf : fetch s with
  | waits => exact .idle hk rfl
  | faults r => exact .refl _
  | runs i =>
    obtain rfl | ⟨T, cls, hsel⟩ := fetch_selects hf
    · exact .idle hk rfl
    · exact exec_alike hk hsel

/-- No turn of the host reads a dead register. -/
theorem hostTurn_alike (hk : s.k = 0#4) (a : HostAction) : Alike (hostTurn a s) (hostTurn a (s.withDead o p)) := by
  cases a with
  | reset => exact .ite (.ite (.refl _) (.refl _)) (.refl _)
  | supplyEdge => exact .ite (.ite (.idle hk rfl) (.refl _)) (.idle hk rfl)
  | supplyQuiet => exact .ite (.idle hk rfl) (.idle hk rfl)
  | supplyRest | setCancel | setSink => exact .idle hk rfl
  | presentCfg | moveCursor => exact .ite (.idle hk rfl) (.refl _)
  | alterSample => exact .ite (.refl _) (.idle hk rfl)

/-- Settles O49: with a pattern in progress the two states are equal, and without one every turn answers alike. -/
theorem deadRegistersAreUnobservable : Obligations.DeadRegistersAreUnobservable := by
  intro s t h
  obtain rfl | ⟨hk, o, p, rfl⟩ := h.cases
  · exact Alike.refl (step t)
  · change Alike (step s) (step (s.withDead o p))
    simp only [step]
    match s.turns with
    | [] => exact coreTurn_alike hk
    | .core :: rest => exact coreTurn_alike (s := { s with turns := rest }) hk
    | .host a :: rest => exact hostTurn_alike (s := { s with turns := rest }) hk a

end Sys2Proof.Machine
end

section
/-! The primitives of the channel, from the lemmas about its transitions (R51 to R54). -/

namespace Sys2Proof.Machine

variable {c : Channel} {start : Nat}

/-- No transition lies at or below `CAPTURE_START`, so the level there is `L0` (R51, R52). -/
theorem Channel.level_start (hw : c.Wf start) : c.level start = c.l0 := by
  have hnone : c.edges.countP (fun t => decide (t ≤ start)) = 0 :=
    List.countP_eq_zero.2 fun t ht => by simpa using (hw.2.1 t ht).1
  simp [Channel.level, hnone]

/-- The level stays the same where there is no transition (R51). -/
theorem Channel.level_of_not_mem {n : Nat} (hn : n ∉ c.edges) : c.level n = c.level (n - 1) := by
  have hnone : c.crossed (n - 1) n = 0 := by
    refine (c.crossed_eq_zero_iff _ _).2 fun t ht hbetween => hn ?_
    rwa [show n = t by omega]
  rw [c.level_of_crossed (Nat.sub_le n 1), hnone]
  rfl

/-- Settles O8: no transition lies up to the start, and above it the level changes where one lies. -/
theorem levelChangesExactlyAtTransitions : Obligations.LevelChangesExactlyAtTransitions := by
  intro start c hw
  refine ⟨Channel.level_start hw, fun n _ => ?_⟩
  split
  · exact Channel.level_of_mem hw ‹_›
  · exact Channel.level_of_not_mem ‹_›

/-- Settles O9: the first transition found above `n` is the least, because the transitions rise. -/
theorem nextTransitionIsLeast : Obligations.NextTransitionIsLeast := by
  intro start c hw n
  refine ⟨fun t => ⟨fun h => ?_, fun ⟨ht, hn, hleast⟩ => ?_⟩, ?_⟩
  · exact ⟨Channel.nextT_mem h, Channel.lt_nextT h, fun u => Channel.nextT_le hw h⟩
  · exact Channel.nextT_eq_some hw ht hn fun u hu hut hmem => Nat.not_lt.2 (hleast u hmem hu) hut
  · simp only [c.nextT_eq_none_iff, Nat.not_lt]

/-- Settles O10: the level changes once per transition crossed. -/
theorem crossedParityGivesLevel : Obligations.CrossedParityGivesLevel :=
  fun c _ _ h => c.level_of_crossed h

end Sys2Proof.Machine
end

section
/-! A channel that has supplied more (R51): what it answers about the samples that were supplied before is the same, and
every supply of the host is such an extension. -/

namespace Sys2Proof.Machine

variable {c d : Channel} {n a b : Nat}

/-- A channel extends itself. -/
theorem Extends.refl (c : Channel) : Extends c c :=
  ⟨rfl, ⟨[], by simp, nofun⟩, fun _ h => h⟩

/-- Supplying samples without a transition extends the channel. -/
theorem Extends.supply {supply : Supply}
    (h : ∀ n, c.supplied n = true → Channel.supplied { c with supply := supply } n = true) :
    Extends c { c with supply := supply } :=
  ⟨rfl, ⟨[], by simp, nofun⟩, h⟩

/-- Supplying the next transition extends the channel. -/
theorem Extends.supplyEdge {t : Nat} (ht : c.supplied t = false) :
    Extends c { c with edges := c.edges ++ [t], supply := .through t } := by
  refine ⟨rfl, ⟨[t], rfl, by simpa using ht⟩, fun n hn => ?_⟩
  simpa [Channel.supplied] using (Channel.lt_of_unsupplied hn ht).le

/-- What is supplied stays supplied. -/
theorem Extends.supplied (h : Extends c d) (hn : c.supplied n = true) : d.supplied n = true :=
  h.2.2 n hn

/-- A transition that is found stays the next one, whatever is supplied later (R53). -/
theorem Extends.nextT {T : Nat} (h : Extends c d) (hT : c.nextT n = some T) : d.nextT n = some T := by
  obtain ⟨-, ⟨more, hedges, -⟩, -⟩ := h
  rw [Channel.nextT] at hT
  rw [Channel.nextT, hedges, List.find?_append, hT]
  rfl

/-- A count of transitions up to a supplied sample stays the same. -/
theorem Extends.countP {p : Nat → Bool} (h : Extends c d) (hb : c.supplied b = true)
    (hp : ∀ t, p t = true → t ≤ b) : d.edges.countP p = c.edges.countP p := by
  obtain ⟨-, ⟨more, hedges, hmore⟩, -⟩ := h
  have hnone : more.countP p = 0 := List.countP_eq_zero.2 fun t ht hpt =>
    Nat.not_le.2 (Channel.lt_of_unsupplied hb (hmore t ht)) (hp t hpt)
  rw [hedges, List.countP_append, hnone, Nat.add_zero]

/-- The level of a supplied sample stays the same (R52). -/
theorem Extends.level (h : Extends c d) (hn : c.supplied n = true) : d.level n = c.level n := by
  rw [Channel.level, Channel.level, h.countP hn (by simp), h.1]

/-- The transitions crossed up to a supplied sample stay the same (R54). -/
theorem Extends.crossed (h : Extends c d) (hb : c.supplied b = true) : d.crossed a b = c.crossed a b :=
  h.countP hb (by simp)

/-- What a turn of the host other than reset does: it changes no register, and of the channel it only supplies more. -/
theorem hostTurn_extends {s t : State} {a : HostAction} (ha : ∀ cfg l0, a ≠ .reset cfg l0)
    (h : hostTurn a s = .next t) : t = { s with chan := t.chan, sink := t.sink, cancel := t.cancel } ∧
      (s.ChanWf → t.chan.Wf s.params.captureStart) ∧ Extends s.chan t.chan := by
  cases a with
  | reset cfg l0 => exact absurd rfl (ha cfg l0)
  | supplyEdge u =>
    have hw : s.ChanWf → t.ChanWf := (supplyEdge_keeps_wf · h)
    obtain rfl | ⟨hu, rfl⟩ := supplyEdge_cases h
    · exact ⟨rfl, hw, .refl _⟩
    · exact ⟨rfl, hw, .supplyEdge hu⟩
  | supplyQuiet n =>
    have hw : s.ChanWf → t.ChanWf := (supplyQuiet_keeps_wf · h)
    obtain rfl | ⟨hn, rfl⟩ := supplyQuiet_cases h
    · exact ⟨rfl, hw, .refl _⟩
    · refine ⟨rfl, hw, .supply fun m hm => ?_⟩
      simpa [Channel.supplied] using (Channel.lt_of_unsupplied hm hn).le
  | supplyRest =>
    cases h
    exact ⟨rfl, Channel.wf_supplyRest, .supply fun _ _ => rfl⟩
  | setCancel | setSink =>
    cases h
    exact ⟨rfl, id, .refl _⟩
  | presentCfg | moveCursor | alterSample =>
    simp only [hostTurn] at h
    split at h <;> cases h
    exact ⟨rfl, id, .refl _⟩

/-- Settles O40: an extension of the channel keeps every supplied sample and its level. -/
theorem hostTurnsKeepRegisters : Obligations.HostTurnsKeepRegisters := by
  intro s t a h ha
  obtain ⟨ht, hw, hext⟩ := hostTurn_extends ha h
  exact ⟨ht, hw, fun _ hn => ⟨hext.supplied hn, hext.level hn⟩⟩

/-- A transition supplied above a sample that had none above it is that sample's next one (R53). -/
theorem Channel.nextT_append {t : Nat} (supply : Supply) (hnone : c.nextT n = none) (hn : n < t) :
    Channel.nextT { c with edges := c.edges ++ [t], supply := supply } n = some t := by
  rw [Channel.nextT] at hnone
  simp [Channel.nextT, List.find?_append, hnone, hn]

/-- Settles O54: each turn answers by its own definition, on the channel that it writes. -/
theorem hostSupplyArrives : Obligations.HostSupplyArrives := by
  intro s
  refine ⟨fun t ht => ?_, fun n hn => ?_, ?_, fun t ht => ?_, fun _ => rfl, fun _ => rfl⟩
  · refine ⟨{ s.chan with edges := s.chan.edges ++ [t], supply := .through t }, ?_, rfl, rfl, ?_, ?_⟩
    · simp [hostTurn, supplyEdge, ht]
    · simp [Channel.supplied]
    · exact Channel.nextT_append _
  · refine ⟨{ s.chan with supply := .through n }, ?_, rfl, rfl, ?_⟩
    · simp [hostTurn, supplyQuiet, hn]
    · simp [Channel.supplied]
  · exact ⟨{ s.chan with supply := .all }, rfl, rfl, rfl, fun _ => rfl⟩
  · refine ⟨?_, fun hmem => ?_⟩
    · simp [hostTurn, supplyQuiet, ht]
    · simp [hostTurn, supplyEdge, ht, hmem]

end Sys2Proof.Machine
end

section
/-! The pace of the channel (R51, R115): where the pulse's end is missing every operation waits, and a turn that does not wait
answers the same on an extension of the channel. -/

namespace Sys2Proof.Machine

/-- Settles O29: every operation but HALT looks for the end of its pulse first, and so does the dispatch. -/
theorem unsuppliedPulseBlocks : Obligations.UnsuppliedPulseBlocks := by
  intro s i hp hT hi
  refine ⟨?_, fun ⟨hh, hc⟩ => ?_⟩
  · cases i with
    | halt => exact absurd rfl hi
    | _ => exact observe_none hp hT
  · simp [coreTurn, fetch, hh, hc, Nat.not_lt.2 hp, hT]

/-- The state on another channel. -/
abbrev State.withChan (s : State) (d : Channel) : State :=
  { s with chan := d }

/-- The answer `y` on the channel `d` is the answer `x` of the state `s`, unless `s` waits (R115). -/
def Persists (s : State) (d : Channel) (x y : Result) : Prop :=
  x = .next s ∨ y = mapNext (·.withChan d) x

variable {s s' : State} {d : Channel}

/-- A branch on a condition that does not read the channel persists when both its sides do. -/
theorem Persists.ite {p : Prop} [Decidable p] {x x' y y' : Result} (hx : Persists s d x x')
    (hy : Persists s d y y') : Persists s d (if p then x else y) (if p then x' else y') := by
  split
  · exact hx
  · exact hy

/-- The end of a pulse that was supplied is found on every extension. -/
theorem Extends.observe_persists (h : Extends s.chan d) {body body' : Nat → Result}
    (hbody : ∀ T, Persists s d (body T) (body' T)) :
    Persists s d (observe s body) (observe (s.withChan d) body') := by
  refine Persists.ite (.inr rfl) ?_
  cases hT : s.chan.nextT s.pos with
  | none => exact .inl rfl
  | some T =>
    simp only [h.nextT hT]
    exact hbody T

/-- The check of what is stored does not read the channel. -/
theorem finish_persists (s s' : State) (stored : List Nat) :
    Persists s d (finish s s' stored) (finish (s.withChan d) (s'.withChan d) stored) :=
  .ite (.inr rfl) (.inr rfl)

/-- Neither the check of what is emitted nor the sink reads the channel. -/
theorem finishEmit_persists (s s' : State) (stored : List Nat) (start stop : Nat) (flags : FlagWord) (value : Nat) :
    Persists s d (finishEmit s s' stored start stop flags value)
      (finishEmit (s.withChan d) (s'.withChan d) stored start stop flags value) := by
  have hrecord : (s.withChan d).recordOf start stop flags value = s.recordOf start stop flags value := rfl
  rw [finishEmit, finishEmit, hrecord]
  cases s.recordOf start stop flags value with
  | none => exact .inr rfl
  | some e => exact .ite (.ite (.inr rfl) (.inr rfl)) (.inr rfl)

/-- Reporting a pulse persists. -/
theorem Extends.reportPulse_persists (h : Extends s.chan d) (s' : State) (flags : FlagWord) :
    Persists s d (reportPulse s s' flags) (reportPulse (s.withChan d) (s'.withChan d) flags) :=
  h.observe_persists fun T => finishEmit_persists s { s' with pos := T } _ _ _ _ _

/-- A failed match persists. -/
theorem Extends.failPattern_persists (h : Extends s.chan d) (flag : FlagWord) :
    Persists s d (failPattern s flag) (failPattern (s.withChan d) flag) :=
  h.observe_persists fun T => .ite (finishEmit_persists s { s with k := 0#4, pos := T } _ _ _ _ _)
    (finish_persists s { s with k := 0#4, pos := T } _)

/-- The centres of a frame's bits lie in order (R184). -/
theorem bitCentre_mono (s0 b : Nat) {i j : Nat} (h : i ≤ j) : bitCentre s0 b i ≤ bitCentre s0 b j :=
  Nat.add_le_add_left (Nat.div_le_div_right (Nat.mul_le_mul_right b (by omega))) s0

/-- The resume point of a frame persists (R183, R187). -/
theorem Extends.frameResume_eq {c : Channel} {s0 b R : Nat} (h : Extends c d) (h11 : c.supplied (bitCentre s0 b 11) = true)
    (hR : frameResume c s0 b = some R) : frameResume d s0 b = some R := by
  rw [frameResume] at hR ⊢
  rw [h.level h11]
  cases hlevel : c.level (bitCentre s0 b 11) with
  | low =>
    rw [hlevel] at hR
    exact h.nextT hR
  | high =>
    simp only [hlevel] at hR ⊢
    split at hR
    · rename_i hend
      rw [if_pos (h.supplied hend), h.crossed hend]
      split at hR
      · rw [if_pos ‹_›, h.nextT hR]
      · rw [if_neg ‹_›, hR]
    · cases hR

/-- The byte of a frame whose samples are supplied persists (R184). -/
theorem Extends.dataByte_eq {c : Channel} {s0 b : Nat} (h : Extends c d)
    (hsup : ∀ j, j ≤ 11 → c.supplied (bitCentre s0 b j) = true) : dataByte d s0 b = dataByte c s0 b := by
  have hbits (i : Nat) (hi : i ∈ List.range 8) : d.level (bitCentre s0 b (i + 1)) = c.level (bitCentre s0 b (i + 1)) :=
    h.level (hsup _ (by have := List.mem_range.1 hi; omega))
  refine congrArg (fun bits : List Nat => BitVec.ofNat 8 bits.sum) (List.map_congr_left fun i hi => ?_)
  simp only [hbits i hi]

/-- A frame that can be read is read the same on every extension (R183 to R187). -/
theorem Extends.readFrame_eq {c : Channel} {s0 b : Nat} {f : FrameReading} (h : Extends c d)
    (hf : readFrame c s0 b = some f) : readFrame d s0 b = some f := by
  rw [readFrame] at hf ⊢
  split at hf
  · rename_i h11
    have hsup (j : Nat) (hj : j ≤ 11) : c.supplied (bitCentre s0 b j) = true :=
      Channel.supplied_of_le (bitCentre_mono s0 b hj) h11
    obtain ⟨R, hR, rfl⟩ := Option.map_eq_some_iff.1 hf
    rw [if_pos (h.supplied h11), h.frameResume_eq h11 hR, h.dataByte_eq hsup, h.level (hsup 9 (by omega)),
      h.level (hsup 10 (by omega)), h.level h11, h.crossed h11]
    rfl
  · cases hf

/-- FRAME persists. -/
theorem Extends.execFrame_persists (h : Extends s.chan d) :
    Persists s d (execFrame s) (execFrame (s.withChan d)) := by
  refine h.observe_persists fun T => ?_
  cases hf : readFrame s.chan s.pos s.bp10 with
  | none => exact .inl rfl
  | some f =>
    simp only [h.readFrame_eq hf]
    exact finishEmit_persists s { s with pos := f.resume } _ _ _ _ _

/-- SYNC.DONE persists. -/
theorem Extends.execSyncDone_persists (h : Extends s.chan d) :
    Persists s d (execSyncDone s) (execSyncDone (s.withChan d)) :=
  h.observe_persists fun T => .ite (.inr rfl) <| finishEmit_persists s
    { s with
      bp10 := s.pos - s.origin
      phase := .synchronized
      k := 0#4
      pos := syncResume s.pos (s.pos - s.origin) T } _ _ _ _ _

/-- Every operation persists. -/
theorem Extends.exec_persists (h : Extends s.chan d) (i : Instr) :
    Persists s d (exec i s) (exec i (s.withChan d)) := by
  cases i with
  | initBreak | idleU | idleS => exact h.reportPulse_persists s _
  | breakU => exact h.reportPulse_persists { s with k := 0#4 } _
  | breakS => exact h.reportPulse_persists { s with phase := .unsynchronized, k := 0#4 } _
  | syncStart =>
    exact h.observe_persists fun T => finish_persists s { s with origin := s.pos, prov := T - s.pos, k := 1#4, pos := T } _
  | syncBit => exact h.observe_persists fun T => finish_persists s { s with k := s.k + 1#4, pos := T } _
  | syncPair => exact h.observe_persists fun T => finish_persists s { s with k := 9#4, pos := T } _
  | syncFailNarrow | syncFailWide | syncFailWrongLevel => exact h.failPattern_persists _
  | syncDone => exact h.execSyncDone_persists
  | resync => exact h.observe_persists fun _ => finish_persists s { s with phase := .unsynchronized, k := 0#4 } _
  | frame => exact h.execFrame_persists
  | halt => exact .inr rfl

/-- The engine waits, or on every extension it selects what it selects now. -/
theorem Extends.waits_or_fetch_eq (h : Extends s.chan d) (hpos : s.chan.supplied s.pos = true) :
    fetch s = .waits ∨ fetch (s.withChan d) = fetch s := by
  cases hT : s.chan.nextT s.pos with
  | none =>
    simp only [fetch, hT]
    split_ifs <;> simp
  | some T =>
    have hkey : dispatchKey (s.withChan d) T = dispatchKey s T := by
      simp only [dispatchKey, h.level hpos]
      rfl
    simp only [fetch, hT, h.nextT hT, hkey]
    exact .inr trivial

/-- The core's turn persists. -/
theorem Extends.coreTurn_persists (h : Extends s.chan d) (hpos : s.chan.supplied s.pos = true) :
    Persists s d (coreTurn s) (coreTurn (s.withChan d)) := by
  simp only [coreTurn]
  obtain hwaits | hsame := h.waits_or_fetch_eq hpos
  · rw [hwaits]
    exact .inl rfl
  · rw [hsame]
    cases fetch s with
    | waits => exact .inl rfl
    | faults => exact .inr rfl
    | runs i => exact h.exec_persists i

/-- Settles O48: a turn that changes the state or faults does not wait, so its answer persists. -/
theorem moreSupplyChangesNothing : Obligations.MoreSupplyChangesNothing := by
  intro s d h hext
  obtain hwaits | hsame := hext.coreTurn_persists h.posSupplied
  · rw [hwaits]
    exact ⟨fun t ht hne => absurd (Host.Outcome.next.inj ht).symm hne, nofun⟩
  · refine ⟨fun t ht _ => ?_, fun r hr => ?_⟩
    · rw [ht] at hsame
      exact hsame
    · rw [hr] at hsame
      exact hsame

end Sys2Proof.Machine
end

section
/-! The event stream: what a turn of the engine adds to it, said once, and that what is added keeps the stream in order
(R58, R59) and tiles the capture (R60). -/

namespace Sys2Proof

/-- No row of Sync-training selects SYNC.START (R90). -/
theorem decodeTraining_ne_syncStart (k : BitVec 4) (level : Level) (cls : WidthClass) :
    decodeTraining k level cls ≠ .ok .syncStart := by
  cases cls with
  | narrow | wide | wrongLevel => nofun
  | long | ok =>
    simp only [decodeTraining]
    split_ifs <;> nofun

/-- SYNC.START is selected only where no pattern is in progress (R90). -/
theorem decodeFields_syncStart {first : Bool} {phase : Phase} {k : BitVec 4} {level : Level} {cls : WidthClass}
    (h : decodeFields first phase k level cls = .ok .syncStart) : k = 0#4 := by
  by_contra hk
  cases phase with
  | synchronized => simp [decodeFields, hk] at h
  | unsynchronized =>
    simp only [decodeFields, if_neg hk] at h
    split_ifs at h
    exact decodeTraining_ne_syncStart k level cls h

end Sys2Proof

namespace Sys2Proof.Machine

variable {s s' t : State} {e : Event} {i : Instr} {T R start value : Nat} {cls : WidthClass} {flags : FlagWord}

/-- The engine runs SYNC.START only where no pattern is in progress. -/
theorem fetch_syncStart (h : fetch s = .runs .syncStart) : s.k = 0#4 := by
  obtain ⟨-, -, hi⟩ | ⟨-, -, -, T, key, -, hkey, hi⟩ := fetch_runs h
  · cases hi
  · obtain ⟨cls, -, rfl⟩ := Option.map_eq_some_iff.1 hkey
    rw [decode, decodeKey_packKey] at hi
    exact decodeFields_syncStart hi

/-- With no pattern in progress the mark is the cursor. -/
theorem State.mark_of_idle (hk : s.k = 0#4) : s.mark = s.pos := by
  simp [State.mark, hk]

/-- With a pattern in progress the mark is its first sample. -/
theorem State.mark_of_pattern (hk : 1 ≤ s.k.toNat) : s.mark = s.origin :=
  if_pos hk

/-- The mark lies in the capture, not above the cursor. -/
theorem EngineInvariant.mark_bounds (h : EngineInvariant s) : s.params.captureStart ≤ s.mark ∧ s.mark ≤ s.pos := by
  by_cases hk : 1 ≤ s.k.toNat
  · obtain ⟨hstart, hspan⟩ := h.patternSpan hk
    rw [State.mark_of_pattern hk]
    exact ⟨hstart, by omega⟩
  · rw [State.mark, if_neg hk]
    exact ⟨h.posStart, Nat.le_refl _⟩

/-- What fits depends on the parameters alone. -/
theorem State.fits_congr (h : t.params = s.params) (v : Nat) : t.fits v = s.fits v := by
  rw [State.fits, State.fits, h]

/-- A record as R58, R82 and R85 ask for it. -/
structure SoundRecord (s : State) (e : Event) : Prop where
  start_le_last : e.start ≤ e.last
  flags_legal : e.flags ∈ legalFlagSets
  fits : s.fits e.start = true ∧ s.fits e.last = true ∧ s.fits e.value = true
  data_byte : e.flags &&& flagData = flagData → e.value < 256

/-- What a turn of the engine does to the stream and the mark: nothing, or it passes samples without a record, which only
SYNC.FAIL without diagnostics does, or it adds one record that begins at the mark, or at the cursor for BREAK.U, and ends
before the new mark. -/
inductive StreamStep (s t : State) : Prop
  | keeps (events : t.events = s.events) (mark : t.mark = s.mark)
  | skips (nodiag : cfgEmitDiag s.cfg = false) (events : t.events = s.events) (mark : s.mark ≤ t.mark)
  | emits (e : Event) (events : t.events = s.events ++ [e]) (mark : t.mark = e.last + 1) (sound : SoundRecord s e)
      (start : e.start = s.mark ∨ e.start = s.pos ∧ ∃ k, fetch s = .runs (.breakU k))

/-- An operation that emits the record of the samples from `start` up to its resume point, and leaves no pattern behind. -/
theorem StreamStep.of_record (hk : s'.k = 0#4) (hevents : s'.events = s.events) (hpos : s'.pos = R) (hlt : start < R)
    (hR : s.fits R = true) (hflags : flags ∈ legalFlagSets) (hvalue : s.fits value = true)
    (hbyte : flags &&& flagData = flagData → value < 256)
    (hstart : start = s.mark ∨ start = s.pos ∧ ∃ k, fetch s = .runs (.breakU k)) :
    StreamStep s (s'.emitted { start := start, last := R - 1, flags := flags, value := value }).stepped := by
  refine .emits { start := start, last := R - 1, flags := flags, value := value } ?_ ?_ ⟨?_, hflags, ?_, hbyte⟩ hstart
  · simp [hevents]
  · rw [State.mark_of_idle (by simpa using hk)]
    simp only [State.stepped_pos, State.emitted_pos]
    omega
  · exact Nat.le_sub_one_of_lt hlt
  · exact ⟨State.fits_of_le s hlt.le hR, State.fits_of_le s (Nat.sub_le R 1) hR, hvalue⟩

/-- An operation that emits nothing and keeps the mark keeps the stream. -/
theorem finish_streamStep {stored : Nat → List Nat} {after : Nat → State}
    (h : observe s (fun T => finish s (after T) (stored T)) = .next t)
    (hafter : ∀ T, (after T).events = s.events ∧ (after T).mark = s.mark) : StreamStep s t := by
  obtain ⟨-, ⟨-, rfl⟩ | ⟨T, -, hb⟩⟩ := observe_cases h
  · exact .keeps rfl rfl
  · obtain ⟨-, rfl⟩ := finish_cases hb
    obtain ⟨hevents, hmark⟩ := hafter T
    exact .keeps hevents hmark

/-- A reported pulse adds its record. -/
theorem reportPulse_streamStep (hk : s'.k = 0#4) (hevents : s'.events = s.events)
    (hflags : flags ∈ legalFlagSets ∧ flags &&& flagData ≠ flagData)
    (hstart : s.pos = s.mark ∨ ∃ k, fetch s = .runs (.breakU k)) (h : reportPulse s s' flags = .next t) :
    StreamStep s t := by
  obtain rfl | ⟨T, hT, hf, rfl⟩ := reportPulse_cases h
  · exact .keeps rfl rfl
  · exact .of_record (s' := { s' with pos := T }) hk hevents rfl (Channel.lt_nextT hT) hf hflags.1 (State.fits_zero s)
      (absurd · hflags.2) (hstart.imp_right fun hbreak => ⟨rfl, hbreak⟩)

/-- A failed match adds the record of the attempt, or without diagnostics passes it by. -/
theorem failPattern_streamStep (hinv : EngineInvariant s) (hk : 1 ≤ s.k.toNat)
    (hflags : flags ∈ legalFlagSets ∧ flags &&& flagData ≠ flagData) (h : failPattern s flags = .next t) :
    StreamStep s t := by
  obtain ⟨-, hspan⟩ := hinv.patternSpan hk
  have hmark : s.origin = s.mark := (State.mark_of_pattern hk).symm
  obtain rfl | ⟨T, hT, hf, ⟨-, -, rfl⟩ | ⟨hdiag, rfl⟩⟩ := failPattern_cases h
  · exact .keeps rfl rfl
  · have hlt := Channel.lt_nextT hT
    refine .of_record (s' := { s with k := 0#4, pos := T }) rfl rfl rfl (by omega) hf hflags.1 ?_
      (absurd · hflags.2) (.inl hmark)
    exact State.fits_of_le s (by omega : s.k.toNat ≤ T) hf
  · have hlt := Channel.lt_nextT hT
    refine .skips hdiag rfl ?_
    rw [← hmark, State.mark_of_idle rfl]
    simp only [State.stepped_pos]
    omega

/-- SYNC.DONE adds the record of the whole pattern. -/
theorem execSyncDone_streamStep (hinv : EngineInvariant s) (hk : s.k = 9#4) (h : execSyncDone s = .next t) :
    StreamStep s t := by
  have hk1 : 1 ≤ s.k.toNat := by simp [hk]
  obtain ⟨-, hspan⟩ := hinv.patternSpan hk1
  obtain rfl | ⟨T, hT, -, hspanFits, hf, -, -, rfl⟩ := execSyncDone_cases h
  · exact .keeps rfl rfl
  · have hlt := Channel.lt_nextT hT
    have hresume : s.pos ≤ syncResume s.pos (s.pos - s.origin) T := Nat.le_min.2 ⟨hlt.le, Nat.le_add_right _ _⟩
    exact .of_record (s' := { s with
      bp10 := s.pos - s.origin
      phase := .synchronized
      k := 0#4
      pos := syncResume s.pos (s.pos - s.origin) T }) rfl rfl rfl (by omega) hf (by decide) hspanFits
      (absurd · (by decide)) (.inl (State.mark_of_pattern hk1).symm)

/-- The flags of a frame's record are a legal set (R82, R188). -/
theorem frameFlags_legal (cfg : CfgWord) (f : FrameReading) : frameFlags cfg f ∈ legalFlagSets := by
  rw [frameFlags]
  split
  · decide
  · cases f.perr <;> cases f.ferr <;> decide

/-- The value of a frame's DATA record is a byte (R85, R188). -/
theorem frameValue_lt (cfg : CfgWord) (b : Nat) (f : FrameReading)
    (h : frameFlags cfg f &&& flagData = flagData) : frameValue cfg b f < 256 := by
  rw [frameFlags] at h
  rw [frameValue]
  split at h
  · exact absurd h (by decide)
  · rw [if_neg ‹_›]
    exact f.byte.isLt

/-- FRAME adds the record of the frame. -/
theorem execFrame_streamStep (hk : s.k = 0#4) (hperiod : 1 ≤ s.bp10) (h : execFrame s = .next t) : StreamStep s t := by
  obtain rfl | ⟨T, f, -, hread, hf, -, -, hvalue, rfl⟩ := execFrame_cases h
  · exact .keeps rfl rfl
  · exact .of_record (s' := { s with pos := f.resume }) hk rfl rfl
      (FrameResumesAt.lt hperiod ((frameResumesAt_iff_readFrame s _).2 ⟨f, hread, rfl⟩)) hf (frameFlags_legal _ f) hvalue
      (frameValue_lt _ _ f) (.inl (State.mark_of_idle hk).symm)

/-- What an operation that the engine runs does to the stream. -/
theorem EngineInvariant.exec_streamStep (hinv : EngineInvariant s) (hf : fetch s = .runs i) (hsel : Selects s T cls i)
    (h : exec i s = .next t) : StreamStep s t := by
  have hrow := hsel.row
  cases i with
  | halt => exact hrow.elim
  | initBreak | idleU | idleS =>
    obtain ⟨-, hk⟩ := hrow
    exact reportPulse_streamStep hk rfl (by decide) (.inl (State.mark_of_idle hk).symm) h
  | breakU k => exact reportPulse_streamStep (s' := { s with k := 0#4 }) rfl rfl (by decide) (.inr ⟨k, hf⟩) h
  | breakS =>
    have hmark := State.mark_of_idle (hinv.r34.syncNoPattern hrow)
    exact reportPulse_streamStep (s' := { s with phase := .unsynchronized, k := 0#4 }) rfl rfl (by decide)
      (.inl hmark.symm) h
  | syncFailNarrow | syncFailWide | syncFailWrongLevel =>
    obtain ⟨-, hk⟩ := hrow
    exact failPattern_streamStep hinv hk (by decide) h
  | syncDone =>
    obtain ⟨-, hk, -⟩ := hrow
    exact execSyncDone_streamStep hinv hk h
  | frame =>
    obtain ⟨hphase, hk⟩ := hrow
    have hperiod := hinv.r34.syncPeriod hphase
    exact execFrame_streamStep hk (by omega) h
  | resync =>
    obtain ⟨-, -, hk, -⟩ := hrow
    exact finish_streamStep h fun _ => ⟨rfl, (State.mark_of_idle rfl).trans (State.mark_of_idle hk).symm⟩
  | syncStart =>
    have hmark := State.mark_of_idle (fetch_syncStart hf)
    exact finish_streamStep h fun _ => ⟨rfl, hmark.symm⟩
  | syncBit =>
    obtain ⟨-, hk, hk7, -⟩ := hrow
    have hnext : 1 ≤ (s.k + 1#4).toNat := by
      rw [BitVec.toNat_add, Nat.mod_eq_of_lt (by simp; omega)]
      exact Nat.le_add_left 1 _
    exact finish_streamStep h fun _ => ⟨rfl, (State.mark_of_pattern hnext).trans (State.mark_of_pattern hk).symm⟩
  | syncPair =>
    obtain ⟨-, hk, -⟩ := hrow
    have hmark : s.mark = s.origin := State.mark_of_pattern (by simp [hk])
    exact finish_streamStep h fun _ => ⟨rfl, hmark.symm⟩

/-- A turn of the core keeps the parameters. -/
theorem coreTurn_keeps_params (h : coreTurn s = .next t) : t.params = s.params := by
  obtain rfl | rfl | ⟨T, cls, R, i, events, sink, -, -, -, rfl⟩ := coreTurn_cases h
  · rfl
  · rfl
  · cases i <;> rfl

/-- What a turn of the core does to the stream. -/
theorem EngineInvariant.coreTurn_streamStep (hinv : EngineInvariant s) (h : coreTurn s = .next t) : StreamStep s t := by
  obtain rfl | rfl | ⟨T, cls, R, i, events, sink, hf, hsel, -, -⟩ := coreTurn_cases h
  · exact .keeps rfl rfl
  · exact .keeps rfl rfl
  · rw [coreTurn_runs hf] at h
    exact hinv.exec_streamStep hf hsel h

/-- A stream stays in order while the mark does not fall. -/
theorem StreamInvariant.of_mark_le (hs : StreamInvariant s) (hevents : t.events = s.events)
    (hparams : t.params = s.params) (hmark : s.mark ≤ t.mark) : StreamInvariant t := by
  obtain ⟨hordered, hranges, hflags, hfields, hbytes⟩ := hs
  rw [← hevents] at hordered hranges hflags hfields hbytes
  refine ⟨hordered, fun e he => ?_, hflags, ?_, hbytes⟩
  · obtain ⟨hstart, hle, hlast⟩ := hranges e he
    exact ⟨hparams ▸ hstart, hle, by omega⟩
  · simpa only [State.fits_congr hparams] using hfields

/-- A sound record that begins no earlier than the mark and ends before the new one keeps the stream in order. -/
theorem StreamInvariant.of_emits (hs : StreamInvariant s) (hevents : t.events = s.events ++ [e])
    (hparams : t.params = s.params) (hmark : t.mark = e.last + 1) (he : SoundRecord s e)
    (hcapture : s.params.captureStart ≤ s.mark) (hstart : s.mark ≤ e.start) : StreamInvariant t := by
  have hle := he.start_le_last
  constructor
  · rw [hevents, List.pairwise_append]
    refine ⟨hs.ordered, List.pairwise_singleton _ _, fun a ha b hb => ?_⟩
    obtain ⟨-, -, hlast⟩ := hs.ranges a ha
    rw [List.mem_singleton.1 hb]
    omega
  · rw [hevents, hparams, hmark, List.forall_mem_append]
    refine ⟨fun a ha => ?_, List.forall_mem_singleton.2 ⟨by omega, hle, by omega⟩⟩
    obtain ⟨hfrom, hrange, hlast⟩ := hs.ranges a ha
    exact ⟨hfrom, hrange, by omega⟩
  · rw [hevents, List.forall_mem_append]
    exact ⟨hs.flagSets, List.forall_mem_singleton.2 he.flags_legal⟩
  · simp only [State.fits_congr hparams]
    rw [hevents, List.forall_mem_append]
    exact ⟨hs.fields, List.forall_mem_singleton.2 he.fits⟩
  · rw [hevents, List.forall_mem_append]
    exact ⟨hs.dataBytes, List.forall_mem_singleton.2 he.data_byte⟩

/-- Every turn of the core keeps the stream in order. -/
theorem coreTurn_keeps_stream (hinv : EngineInvariant s) (hs : StreamInvariant s) (h : coreTurn s = .next t) :
    StreamInvariant t := by
  have hparams := coreTurn_keeps_params h
  obtain ⟨hcapture, hcursor⟩ := hinv.mark_bounds
  cases hinv.coreTurn_streamStep h with
  | keeps hevents hmark => exact hs.of_mark_le hevents hparams hmark.ge
  | skips _ hevents hmark => exact hs.of_mark_le hevents hparams hmark
  | emits e hevents hmark he hstart =>
    refine hs.of_emits hevents hparams hmark he hcapture ?_
    obtain hstart | ⟨hstart, -⟩ := hstart
    · exact hstart.ge
    · exact hstart ▸ hcursor

/-- Every turn of the host keeps the stream in order: reset empties it, and no other turn touches it (R67, R230). -/
theorem hostTurn_keeps_stream {a : HostAction} (hs : StreamInvariant s) (h : hostTurn a s = .next t) :
    StreamInvariant t := by
  by_cases ha : ∀ cfg l0, a ≠ .reset cfg l0
  · obtain ⟨ht, -, -⟩ := hostTurn_extends ha h
    rw [ht]
    exact hs.of_mark_le rfl rfl (Nat.le_refl _)
  · simp only [not_forall, Classical.not_not] at ha
    obtain ⟨cfg, l0, rfl⟩ := ha
    obtain ⟨-, -, rfl⟩ := resetOp_cases h
    exact ⟨.nil, nofun, nofun, nofun, nofun⟩

/-- Settles O43: whoever takes the turn, the core or the host, keeps the stream in order. -/
theorem stepKeepsStreamInvariant : Obligations.StepKeepsStreamInvariant := by
  intro s t hinv hs h
  have hrest (rest : List Turn) : StreamInvariant { s with turns := rest } := hs.of_mark_le rfl rfl (Nat.le_refl _)
  unfold step at h
  split at h
  · exact coreTurn_keeps_stream hinv hs h
  · exact coreTurn_keeps_stream hinv.of_inputs (hrest _) h
  · exact hostTurn_keeps_stream (hrest _) h

/-- A record that begins where a tiling ends prolongs it. -/
theorem Tiles.concat {a b : Nat} {es : List Event} (h : Tiles a es b) (hstart : e.start = b) (hle : e.start ≤ e.last) :
    Tiles a (es ++ [e]) (e.last + 1) := by
  induction es generalizing a with
  | nil =>
    cases h
    exact ⟨hstart, hle, rfl⟩
  | cons x xs ih =>
    obtain ⟨hx, hxle, hrest⟩ := h
    exact ⟨hx, hxle, ih hrest⟩

/-- Settles O44: with diagnostics on no samples are passed by, and a record begins at the mark unless BREAK.U abandons a
pattern. -/
theorem eventsTileTheCapture : Obligations.EventsTileTheCapture := by
  intro s t hinv hdiag htiles hbreak h
  rw [coreTurn_keeps_params h]
  cases hinv.coreTurn_streamStep h with
  | keeps hevents hmark => rwa [hevents, hmark]
  | skips hnodiag => exact absurd (hdiag.symm.trans hnodiag) (by decide)
  | emits e hevents hmark he hstart =>
    have hstart : e.start = s.mark := by
      obtain hstart | ⟨hstart, k, hk⟩ := hstart
      · exact hstart
      · rw [hstart, State.mark_of_idle (hbreak k hk)]
    rw [hevents, hmark]
    exact htiles.concat hstart he.start_le_last

end Sys2Proof.Machine
end

section
/-! The operation map, said once: the fields of the key in an operation's row, and that the decoder answers exactly the
well-formed operation with those fields (R88 to R91). Both round trips, and the rows of the map, follow from it. -/

namespace Sys2Proof

/-- The fields of a dispatch key whose class is not reserved (R88, R89). -/
structure KeyFields where
  first : Bool
  phase : Phase
  k : BitVec 4
  level : Level
  cls : WidthClass

/-- The key with these fields (R88). -/
def KeyFields.key (f : KeyFields) : Key :=
  packKey f.first f.phase f.k f.level f.cls.bits

/-- The fields of the key in an operation's row with the row's open bits filled in (R90); HALT has no row. -/
def Instr.fields : Instr → Option KeyFields
  | .initBreak cls => some ⟨true, .unsynchronized, 0#4, .low, cls⟩
  | .idleU first cls => some ⟨first, .unsynchronized, 0#4, .high, cls⟩
  | .syncStart => some ⟨false, .unsynchronized, 0#4, .low, .ok⟩
  | .breakU k => some ⟨false, .unsynchronized, k, .low, .long⟩
  | .syncBit k => some ⟨false, .unsynchronized, k, patternLevel k, .ok⟩
  | .syncPair => some ⟨false, .unsynchronized, 8#4, .low, .ok⟩
  | .syncDone => some ⟨false, .unsynchronized, 9#4, .high, .ok⟩
  | .syncFailNarrow k level => some ⟨false, .unsynchronized, k, level, .narrow⟩
  | .syncFailWide k level => some ⟨false, .unsynchronized, k, level, .wide⟩
  | .syncFailWrongLevel k level => some ⟨false, .unsynchronized, k, level, .wrongLevel⟩
  | .idleS cls => some ⟨false, .synchronized, 0#4, .high, cls⟩
  | .breakS => some ⟨false, .synchronized, 0#4, .low, .long⟩
  | .resync => some ⟨false, .synchronized, 0#4, .low, .narrow⟩
  | .frame => some ⟨false, .synchronized, 0#4, .low, .ok⟩
  | .halt => none

variable {first : Bool} {k : BitVec 4} {level : Level} {cls : WidthClass} {i : Instr} {key : Key}

/-- The encoder packs the fields of the operation's row. -/
theorem encode_eq_fields (i : Instr) : encode i = i.fields.elim .cancelled fun f => .keyed f.key := by
  cases i with
  | syncStart | syncPair | syncDone | breakS | resync | frame | halt => decide
  | initBreak cls | idleS cls => cases cls <;> decide
  | idleU first cls => cases first <;> cases cls <;> decide
  | breakU k | syncBit k => revert k; decide
  | syncFailNarrow k level | syncFailWide k level | syncFailWrongLevel k level =>
    cases level <;> revert k <;> decide

/-- The decoder answers every well-formed operation on the fields of its row (R90). -/
theorem decodeFields_of_fields {f : KeyFields} (hw : i.wellFormed = true) (hf : i.fields = some f) :
    decodeFields f.first f.phase f.k f.level f.cls = .ok i := by
  cases i with
  | halt => cases hf
  | syncStart | syncPair | syncDone | initBreak | idleU | idleS | breakS | resync | frame => cases hf; rfl
  | breakU k | syncBit k =>
    cases hf
    revert k
    decide
  | syncFailNarrow k level | syncFailWide k level | syncFailWrongLevel k level =>
    cases hf
    cases level <;> revert k <;> decide

/-- What Idle-wait decodes to has the fields it was decoded from. -/
theorem decodeIdleWait_fields (h : decodeIdleWait first level cls = .ok i) :
    i.wellFormed = true ∧ i.fields = some ⟨first, .unsynchronized, 0#4, level, cls⟩ := by
  cases level with
  | high => cases h; exact ⟨rfl, rfl⟩
  | low =>
    cases first with
    | true => cases h; exact ⟨rfl, rfl⟩
    | false =>
      cases cls with
      | ok | long => cases h; exact ⟨rfl, rfl⟩
      | narrow | wide | wrongLevel => cases h

/-- What Frame-decode decodes to has the fields it was decoded from. -/
theorem decodeFrameDecode_fields (h : decodeFrameDecode level cls = .ok i) :
    i.wellFormed = true ∧ i.fields = some ⟨false, .synchronized, 0#4, level, cls⟩ := by
  cases level with
  | high => cases h; exact ⟨rfl, rfl⟩
  | low =>
    cases cls with
    | ok | narrow | long => cases h; exact ⟨rfl, rfl⟩
    | wide | wrongLevel => cases h

/-- What Sync-training decodes to has the fields it was decoded from. -/
theorem decodeTraining_fields (hk : 1 ≤ k.toNat) (hk9 : k.toNat ≤ 9) (h : decodeTraining k level cls = .ok i) :
    i.wellFormed = true ∧ i.fields = some ⟨false, .unsynchronized, k, level, cls⟩ := by
  cases cls with
  | narrow | wide | wrongLevel => cases h; exact ⟨by simp [Instr.wellFormed, hk, hk9], rfl⟩
  | long =>
    cases level with
    | high => cases h
    | low => cases h; exact ⟨by simp [Instr.wellFormed, hk9], rfl⟩
  | ok =>
    simp only [decodeTraining] at h
    split at h
    · cases h
    · rename_i hlevel
      obtain rfl : level = patternLevel k := Classical.not_not.1 hlevel
      split at h
      · rename_i hk7
        cases h
        exact ⟨by simp [Instr.wellFormed, hk, hk7], rfl⟩
      · split at h
        · obtain rfl : k = 8#4 := BitVec.eq_of_toNat_eq ‹_›
          cases h
          exact ⟨rfl, rfl⟩
        · obtain rfl : k = 9#4 := BitVec.eq_of_toNat_eq (by simp; omega)
          cases h
          exact ⟨rfl, rfl⟩

/-- A position other than 0 is at least 1. -/
theorem one_le_of_ne_zero (hk : k ≠ 0#4) : 1 ≤ k.toNat :=
  Nat.one_le_iff_ne_zero.2 fun h0 => hk (BitVec.eq_of_toNat_eq h0)

/-- What the decoder answers is a well-formed operation with the fields it was asked about (R90, R91). -/
theorem fields_of_decodeFields {phase : Phase} (h : decodeFields first phase k level cls = .ok i) :
    i.wellFormed = true ∧ i.fields = some ⟨first, phase, k, level, cls⟩ := by
  cases phase with
  | unsynchronized =>
    simp only [decodeFields] at h
    split at h
    · subst k
      exact decodeIdleWait_fields h
    · rename_i hk
      cases first with
      | true => cases h
      | false =>
        by_cases hk9 : k.toNat ≤ 9
        · rw [if_neg Bool.false_ne_true, if_pos hk9] at h
          exact decodeTraining_fields (one_le_of_ne_zero hk) hk9 h
        · simp [hk9] at h
  | synchronized =>
    cases first with
    | true => cases h
    | false =>
      by_cases hk : k = 0#4
      · subst k
        exact decodeFrameDecode_fields h
      · simp [decodeFields, hk] at h

/-- A key is put together from its fields (R88). -/
theorem packKey_fields (key : Key) :
    packKey (keyFirst key) (keyPhase key) (keyK key) (keyLevel key) (keyCls key) = key := by
  refine BitVec.eq_of_getLsbD_eq fun n hn => ?_
  have hphase : (keyPhase key).isSync = key.getLsbD 8 := by
    rw [keyPhase]; cases key.getLsbD 8 <;> rfl
  have hlevel : (keyLevel key).isHigh = key.getLsbD 3 := by
    rw [keyLevel]; cases key.getLsbD 3 <;> rfl
  rw [getLsbD_packKey _ _ _ _ _ hn, hphase, hlevel, keyFirst, keyK, keyCls]
  simp only [BitVec.getLsbD_extractLsb']
  grind

/-- The class field of a key holds the encoding of the class it is read as (R89). -/
theorem WidthClass.ofBits_eq_some {v : BitVec 3} : WidthClass.ofBits v = some cls ↔ v = cls.bits := by
  revert v; cases cls <;> decide

/-- A key that decodes is the key of the fields of the operation it decodes to (R90, R91). -/
theorem fields_of_decodeKey (h : decodeKey key = .ok i) :
    i.wellFormed = true ∧ ∃ f, i.fields = some f ∧ f.key = key := by
  unfold decodeKey at h
  split at h
  · cases h
  · rename_i cls hcls
    obtain ⟨hw, hf⟩ := fields_of_decodeFields h
    refine ⟨hw, _, hf, ?_⟩
    rw [KeyFields.key, ← WidthClass.ofBits_eq_some.1 hcls, packKey_fields]

/-- Settles O1: the encoder packs the fields of the operation's row, and the decoder answers the operation on them. -/
theorem decodeInvertsEncode : Obligations.DecodeInvertsEncode := by
  intro i hw
  rw [encode_eq_fields]
  cases hf : i.fields with
  | none =>
    cases i with
    | halt => rfl
    | _ => cases hf
  | some f => exact (decodeKey_packKey ..).trans (decodeFields_of_fields hw hf)

/-- Settles O2: the operation a key decodes to has the key's fields, which the encoder packs again. -/
theorem encodeInvertsDecode : Obligations.EncodeInvertsDecode := by
  intro sel i h
  cases sel with
  | cancelled => cases h; exact ⟨rfl, rfl⟩
  | keyed key =>
    obtain ⟨hw, f, hf, rfl⟩ := fields_of_decodeKey h
    refine ⟨hw, ?_⟩
    rw [encode_eq_fields, hf]
    rfl

/-- The encoder puts every well-formed operation into its row of the operation map (R90). -/
theorem encode_in_row (i : Instr) : Laws.EncodedRow.Statement i := by
  cases i with
  | initBreak cls => exact Laws.EncodedRow.initBreak cls
  | idleU first cls => exact Laws.EncodedRow.idleU first cls
  | syncStart => exact Laws.EncodedRow.syncStart
  | breakU k => exact Laws.EncodedRow.breakU k
  | syncBit k => exact Laws.EncodedRow.syncBit k
  | syncPair => exact Laws.EncodedRow.syncPair
  | syncDone => exact Laws.EncodedRow.syncDone
  | syncFailNarrow k level => exact Laws.EncodedRow.syncFailNarrow k level
  | syncFailWide k level => exact Laws.EncodedRow.syncFailWide k level
  | syncFailWrongLevel k level => exact Laws.EncodedRow.syncFailWrongLevel k level
  | idleS cls => exact Laws.EncodedRow.idleS cls
  | breakS => exact Laws.EncodedRow.breakS
  | resync => exact Laws.EncodedRow.resync
  | frame => exact Laws.EncodedRow.frame
  | halt => exact Laws.EncodedRow.halt

/-- A key decodes to the well-formed operation that encodes to it. -/
theorem decodeKey_of_encode (hw : i.wellFormed = true) (h : encode i = .keyed key) : decodeKey key = .ok i := by
  have hi := decodeInvertsEncode i hw
  rwa [h] at hi

/-- Two masks that cover the key between them split it. -/
theorem key_split {m m' : Key} (h : m ||| m' = BitVec.allOnes 10) : key = (key &&& m) ||| (key &&& m') := by
  rw [← BitVec.and_or_distrib_left, h, BitVec.and_allOnes]

/-- The three lowest bits of a key are its class field (R88). -/
theorem and_class_mask (key : Key) : key &&& 0x007#10 = (keyCls key).zeroExtend 10 := by
  refine BitVec.eq_of_getLsbD_eq fun n hn => ?_
  have hmask : ∀ n < 10, (0x007#10).getLsbD n = decide (n < 3) := by decide
  rw [BitVec.getLsbD_and, hmask n hn, keyCls, BitVec.zeroExtend, BitVec.getLsbD_setWidth, BitVec.getLsbD_extractLsb',
    Nat.zero_add, decide_eq_true hn, Bool.true_and, Bool.and_comm]

/-- The highest bit of a key is `first` (R88). -/
theorem and_first_mask (key : Key) : key &&& 0x200#10 = if keyFirst key then 0x200#10 else 0#10 :=
  BitVec.and_twoPow key 9

/-- A key whose row leaves only the class open is the row's match value with the class filled in (R90). -/
theorem key_of_class_row {m : Key} (hrow : key &&& 0x3F8#10 = m) (hcls : WidthClass.ofBits (keyCls key) = some cls) :
    key = m ||| cls.bits.zeroExtend 10 := by
  rw [← hrow, ← WidthClass.ofBits_eq_some.1 hcls, ← and_class_mask]
  exact key_split (by decide)

/-- A key of IDLE.U's row is the row's match value with `first` and the class filled in (R90). -/
theorem key_of_idleU_row (hrow : key &&& 0x1F8#10 = 0x008#10) (hcls : WidthClass.ofBits (keyCls key) = some cls) :
    key = 0x008#10 ||| (if keyFirst key then 0x200#10 else 0#10) ||| cls.bits.zeroExtend 10 := by
  rw [← hrow, ← WidthClass.ofBits_eq_some.1 hcls, ← and_class_mask, ← and_first_mask, ← BitVec.and_or_distrib_left]
  exact key_split (by decide)

/-- Settles O3: a key that decodes is encoded again, into its row; a key in a row without a `k` to fill in is what the row's
operation encodes to. -/
theorem decodeFollowsOperationMap : Obligations.DecodeFollowsOperationMap := by
  refine ⟨fun key i h => ?_, fun key cls hcls => ⟨fun h => ?_, fun h => ?_, fun h => ?_, ?_, ?_, ?_, ?_, ?_, ?_⟩⟩
  · obtain ⟨hw, henc⟩ := encodeInvertsDecode (.keyed key) i h
    exact encode_in_row i hw key henc
  · exact decodeKey_of_encode rfl (congrArg Selector.keyed (key_of_class_row h hcls).symm)
  · exact decodeKey_of_encode rfl (congrArg Selector.keyed (key_of_idleU_row h hcls).symm)
  · exact decodeKey_of_encode rfl (congrArg Selector.keyed (key_of_class_row h hcls).symm)
  all_goals
    rintro rfl
    exact decodeKey_of_encode rfl rfl

end Sys2Proof
end

section
/-! The other side of the operation map: which keys match no row, and what the engine does on one (R91, R136). -/

namespace Sys2Proof

variable {first : Bool} {k : BitVec 4} {level : Level} {cls : WidthClass}

/-- In Idle-wait the LOW pulses that are too narrow, too wide or at the wrong level match no row, after the first step. -/
theorem decodeIdleWait_error : (∃ r, decodeIdleWait first level cls = .error r) ↔
    level = .low ∧ first = false ∧ (cls = .narrow ∨ cls = .wide ∨ cls = .wrongLevel) := by
  cases level <;> cases first <;> cases cls <;> simp [decodeIdleWait]

/-- In Sync-training a long HIGH pulse and an OK pulse of the other level match no row. -/
theorem decodeTraining_error : (∃ r, decodeTraining k level cls = .error r) ↔
    (cls = .long ∧ level = .high) ∨ (cls = .ok ∧ level ≠ patternLevel k) := by
  cases cls with
  | narrow | wide | wrongLevel => simp [decodeTraining]
  | long => cases level <;> simp [decodeTraining]
  | ok =>
    by_cases hlevel : level = patternLevel k
    · simp only [decodeTraining, hlevel, ne_eq, not_true, if_false]
      split_ifs <;> simp
    · simp [decodeTraining, hlevel]

/-- In Frame-decode the LOW pulses that are too wide or at the wrong level match no row. -/
theorem decodeFrameDecode_error : (∃ r, decodeFrameDecode level cls = .error r) ↔
    level = .low ∧ (cls = .wide ∨ cls = .wrongLevel) := by
  cases level <;> cases cls <;> simp [decodeFrameDecode]

/-- The fields that match no row (R90, R91). -/
theorem decodeFields_error {phase : Phase} : (∃ r, decodeFields first phase k level cls = .error r) ↔
    9 < k.toNat ∨ (phase = .synchronized ∧ k ≠ 0#4) ∨ (first = true ∧ (phase = .synchronized ∨ k ≠ 0#4)) ∨
      (level = .low ∧ first = false ∧ k = 0#4 ∧
        ((phase = .unsynchronized ∧ cls = .narrow) ∨ cls = .wide ∨ cls = .wrongLevel)) ∨
      (k ≠ 0#4 ∧ cls = .long ∧ level = .high) ∨ (k ≠ 0#4 ∧ cls = .ok ∧ level ≠ patternLevel k) := by
  by_cases hk : k = 0#4
  · subst k
    cases phase with
    | unsynchronized => simp [decodeFields, decodeIdleWait_error]
    | synchronized => cases first <;> simp [decodeFields, decodeFrameDecode_error]
  · cases phase with
    | synchronized => cases first <;> simp [decodeFields, hk]
    | unsynchronized =>
      cases first with
      | true => simp [decodeFields, hk]
      | false =>
        by_cases hk9 : k.toNat ≤ 9
        · simp [decodeFields, hk, hk9, decodeTraining_error]
        · simp [decodeFields, hk, hk9, Nat.lt_of_not_le hk9]

/-- The values of the class field that encode no class are those above 4 (R89). -/
theorem WidthClass.ofBits_eq_none {v : BitVec 3} : WidthClass.ofBits v = none ↔ 4 < v.toNat := by
  revert v; decide

/-- A level is not the one the pattern requires exactly when it is HIGH at an even position (R150). -/
theorem ne_patternLevel_iff : level ≠ patternLevel k ↔ (level = .high ↔ k.toNat % 2 = 0) := by
  revert k; cases level <;> decide

/-- The keys that match no row, by their fields (R91). -/
theorem decodeKey_error (key : Key) : (∃ r, decodeKey key = .error r) ↔
    WidthClass.ofBits (keyCls key) = none ∨ ∃ cls, WidthClass.ofBits (keyCls key) = some cls ∧
      ∃ r, decodeFields (keyFirst key) (keyPhase key) (keyK key) (keyLevel key) cls = .error r := by
  unfold decodeKey
  cases WidthClass.ofBits (keyCls key) <;> simp

end Sys2Proof

namespace Sys2Proof.Machine

/-- A step that is taken on a pulse whose end is supplied selects by the dispatch key (R110). -/
theorem fetch_eq_selectKeyed {s : State} {T : Nat} (hs : Enabled s) (hT : PulseEnds s T) :
    fetch s = selectKeyed (dispatchKey s T) := by
  obtain ⟨hh, hc⟩ := hs
  obtain ⟨hstart, hT⟩ := hT
  simp [fetch, hh, hc, Nat.not_lt.2 hstart, hT]

/-- The core's turn faults where its fetch does. -/
theorem coreTurn_faults {s : State} {r : Fault} (h : fetch s = .faults r) : coreTurn s = .fault r := by
  rw [coreTurn, h]

/-- Settles O4: the unmatched fields are the listed ones, with the classes in their encoding; the engine's turn on such a key
is what the fetch answers. -/
theorem unmatchedKeysFault : Obligations.UnmatchedKeysFault := by
  refine ⟨fun key => ?_, fun s T hs hT => ⟨fun hkey => ?_, fun key r hkey hr => ?_⟩⟩
  · rw [decodeKey_error]
    cases hcls : WidthClass.ofBits (keyCls key) with
    | none => simp [WidthClass.ofBits_eq_none.1 hcls]
    | some cls =>
      have hbits := WidthClass.ofBits_eq_some.1 hcls
      simp only [reduceCtorEq, false_or, Option.some.injEq, exists_eq_left', decodeFields_error,
        ne_patternLevel_iff, hbits]
      cases cls <;> simp [WidthClass.bits]
  · apply coreTurn_faults
    rw [fetch_eq_selectKeyed hs hT, hkey]
    rfl
  · apply coreTurn_faults
    rw [fetch_eq_selectKeyed hs hT, hkey]
    simp [selectKeyed, decode, hr]

end Sys2Proof.Machine
end

section
/-! The engine's turn under its invariant: its key always matches a row, and an operation goes on or overflows (R33, R91,
R211). -/

namespace Sys2Proof.Machine

variable {s : State} {i : Instr} {T : Nat} {level : Level} {w : Nat} {cls : WidthClass}

/-- A pattern position in 1 to 9 has a check (R136). -/
theorem positionCheck_isSome {k : BitVec 4} (cfg : CfgWord) (hk : k ≠ 0#4) (hk9 : k.toNat ≤ 9) :
    ∃ check, positionCheck cfg k = some check := by
  have hk1 := one_le_of_ne_zero hk
  unfold positionCheck
  split_ifs
  · exact ⟨_, rfl⟩
  · exact ⟨_, rfl⟩
  · exact ⟨_, rfl⟩
  · omega

/-- The class is undefined only at the pattern positions 10 to 15 (R136). -/
theorem classify_isSome (hk9 : s.k.toNat ≤ 9) (level : Level) (w : Nat) : ∃ cls, classify s level w = some cls := by
  unfold classify
  cases s.first with
  | true => exact ⟨_, rfl⟩
  | false =>
    cases isLong s.bp10 level w with
    | true => exact ⟨_, rfl⟩
    | false =>
      cases s.phase with
      | synchronized => exact ⟨_, rfl⟩
      | unsynchronized =>
        by_cases hk : s.k = 0#4
        · simp [hk]
        · obtain ⟨check, hcheck⟩ := positionCheck_isSome s.cfg hk hk9
          simp [hk, hcheck]

/-- The checks of a pattern position never answer LONG (R136). -/
theorem classifyAt_ne_long (cfg : CfgWord) (prov : Nat) (level : Level) (w : Nat) (check : Level × Nat × Bool) :
    classifyAt cfg prov level w check ≠ .long := by
  unfold classifyAt
  split_ifs <;> decide

/-- The classes after the first step: LONG is of a LOW pulse, NARROW while synchronised likewise, Idle-wait adds none but OK,
and a pattern position never adds LONG (R134, R136). -/
theorem classify_cases (hfirst : s.first = false) (h : classify s level w = some cls) :
    (cls = .long ∧ level = .low) ∨ (s.phase = .synchronized ∧ (cls = .narrow ∨ cls = .ok)) ∨
      (s.phase = .unsynchronized ∧ s.k = 0#4 ∧ cls = .ok) ∨ (s.phase = .unsynchronized ∧ s.k ≠ 0#4 ∧ cls ≠ .long) := by
  rw [classify, hfirst, if_neg Bool.false_ne_true] at h
  split at h
  · rename_i hlong
    have hlow : level = .low := (of_decide_eq_true hlong).1
    cases h
    exact .inl ⟨rfl, hlow⟩
  · cases hphase : s.phase with
    | synchronized =>
      simp only [hphase] at h
      split at h <;> cases h
      · exact .inr (.inl ⟨rfl, .inl rfl⟩)
      · exact .inr (.inl ⟨rfl, .inr rfl⟩)
    | unsynchronized =>
      simp only [hphase] at h
      by_cases hk : s.k = 0#4
      · rw [if_pos hk] at h
        cases h
        exact .inr (.inr (.inl ⟨rfl, hk, rfl⟩))
      · rw [if_neg hk] at h
        obtain ⟨check, -, rfl⟩ := Option.map_eq_some_iff.1 h
        exact .inr (.inr (.inr ⟨rfl, hk, classifyAt_ne_long _ _ _ _ _⟩))

/-- A pattern in progress means that a step has been taken (R34 (e)). -/
theorem EngineInvariant.not_first_of_pattern (h : EngineInvariant s) (hk : s.k ≠ 0#4) : s.first = false := by
  rw [← Bool.not_eq_true]
  intro hfirst
  obtain ⟨-, hk0, -⟩ := h.r34.firstStep hfirst
  exact hk hk0

/-- From the invariant the fields of the key at the cursor match a row (R91). -/
theorem EngineInvariant.decodes (h : EngineInvariant s) (hcls : classify s (s.chan.level s.pos) w = some cls) :
    ∃ i, decodeFields s.first s.phase s.k (s.chan.level s.pos) cls = .ok i := by
  cases hd : decodeFields s.first s.phase s.k (s.chan.level s.pos) cls with
  | ok i => exact ⟨i, rfl⟩
  | error r =>
    exfalso
    obtain hk | ⟨hphase, hk⟩ | ⟨hfirst, hbad⟩ | ⟨-, hfirst, hk, hbad⟩ | ⟨hk, rfl, hhigh⟩ | ⟨hk, -, hlevel⟩ :=
      decodeFields_error.1 ⟨r, hd⟩
    · exact absurd h.r34.position (Nat.not_le.2 hk)
    · exact hk (h.r34.syncNoPattern hphase)
    · obtain ⟨hphase, hk, -⟩ := h.r34.firstStep hfirst
      simp [hphase, hk] at hbad
    · obtain ⟨rfl, -⟩ | ⟨hphase, rfl | rfl⟩ | ⟨-, -, rfl⟩ | ⟨-, hk', -⟩ := classify_cases hfirst hcls
      · simp at hbad
      · simp [hphase] at hbad
      · simp at hbad
      · simp at hbad
      · exact hk' hk
    · have hfirst := h.not_first_of_pattern hk
      obtain ⟨-, hlow⟩ | ⟨-, hc | hc⟩ | ⟨-, -, hc⟩ | ⟨-, -, hc⟩ := classify_cases hfirst hcls
      · simp [hlow] at hhigh
      · cases hc
      · cases hc
      · cases hc
      · exact hc rfl
    · exact hlevel (h.patternEdge (one_le_of_ne_zero hk)).2

/-- From the invariant the core waits or runs an operation; its fetch does not fault (R91, R211). -/
theorem EngineInvariant.waits_or_runs (h : EngineInvariant s) : fetch s = .waits ∨ ∃ i, fetch s = .runs i := by
  cases hh : s.halted with
  | true => simp [fetch, hh]
  | false =>
    cases hc : s.cancel with
    | true => simp [fetch, hh, hc]
    | false =>
      cases hT : s.chan.nextT s.pos with
      | none => simp [fetch, hh, hc, hT, Nat.not_lt.2 h.posStart]
      | some T =>
        obtain ⟨cls, hcls⟩ := classify_isSome h.r34.position (s.chan.level s.pos) (T - s.pos)
        obtain ⟨i, hi⟩ := h.decodes hcls
        exact .inr ⟨i, fetch_of_decodeFields hh hc h.posStart hT hcls hi⟩

/-- The result is a next state or the overflow fault of R33. -/
def NextOrOverflow (r : Result) : Prop :=
  (∃ t, r = .next t) ∨ r = .fault .indexOverflow

/-- An operation on a pulse at or above `CAPTURE_START` blocks or does what its body does. -/
theorem observe_nextOrOverflow {body : Nat → Result} (hstart : s.params.captureStart ≤ s.pos)
    (hbody : ∀ T, NextOrOverflow (body T)) : NextOrOverflow (observe s body) := by
  cases hT : s.chan.nextT s.pos with
  | none => exact .inl ⟨s, observe_none hstart hT⟩
  | some T =>
    rw [observe_some hstart hT]
    exact hbody T

/-- An operation at or above `CAPTURE_START` goes on or overflows, and is never refused (R33, R211). -/
theorem exec_nextOrOverflow (hstart : s.params.captureStart ≤ s.pos) (i : Instr) : NextOrOverflow (exec i s) := by
  cases i with
  | halt => exact .inl ⟨_, exec_halt s⟩
  | initBreak | idleU | idleS | breakU | breakS =>
    exact observe_nextOrOverflow hstart fun T => finishEmit_total ..
  | syncStart | syncBit | syncPair | resync =>
    exact observe_nextOrOverflow hstart fun T => finish_total ..
  | syncFailNarrow | syncFailWide | syncFailWrongLevel =>
    refine observe_nextOrOverflow hstart fun T => ?_
    split
    · exact finishEmit_total ..
    · exact finish_total ..
  | syncDone =>
    refine observe_nextOrOverflow hstart fun T => ?_
    split
    · exact .inr rfl
    · exact finishEmit_total ..
  | frame =>
    refine observe_nextOrOverflow hstart fun T => ?_
    split
    · exact .inl ⟨s, rfl⟩
    · exact finishEmit_total ..

/-- Settles O45: the core waits, or runs an operation, which goes on or overflows. -/
theorem dataNeverStopsTheEngine : Obligations.DataNeverStopsTheEngine := by
  intro s h
  obtain hf | ⟨i, hf⟩ := h.waits_or_runs
  · exact .inl ⟨s, by rw [coreTurn, hf]⟩
  · rw [coreTurn_runs hf]
    exact exec_nextOrOverflow h.posStart i

end Sys2Proof.Machine
end

section
/-! Layouts: the dispatch key as a number (R88), the event record as a packed word and as bytes (R83), and the reserved bits
of the configuration word (R87). -/

namespace Sys2Proof

/-- Appending puts the first word above the second. -/
theorem toNat_append_eq_add {m n : Nat} (x : BitVec m) (y : BitVec n) :
    (x ++ y).toNat = 2 ^ n * x.toNat + y.toNat := by
  rw [BitVec.toNat_append, ← Nat.shiftLeft_add_eq_or_of_lt y.isLt, Nat.shiftLeft_eq, Nat.mul_comm]

/-- A packed key as a number (R88). -/
theorem toNat_packKey (first : Bool) (phase : Phase) (k : BitVec 4) (level : Level) (cls : BitVec 3) :
    (packKey first phase k level cls).toNat = 512 * (if first then 1 else 0) +
      256 * (if phase = .synchronized then 1 else 0) + 16 * k.toNat + 8 * (if level = .high then 1 else 0) +
        cls.toNat := by
  unfold packKey
  simp only [toNat_append_eq_add]
  cases first <;> cases phase <;> cases level <;> simp [Phase.isSync, Level.isHigh] <;> omega

end Sys2Proof

namespace Sys2Proof.Machine

/-- Settles O6: the key packs the fields of the state and the class of the pulse. -/
theorem dispatchKeyLayout : Obligations.DispatchKeyLayout := by
  intro s T key h
  obtain ⟨cls, hcls, rfl⟩ := Option.map_eq_some_iff.1 h
  exact ⟨cls, hcls, toNat_packKey ..⟩

/-- Settles O5: each word by running the decoder on it. -/
theorem knownKeysDecode : Obligations.KnownKeysDecode := by
  unfold Obligations.KnownKeysDecode
  decide

/-- A configuration word with a bit set above the four that are used is not legal (R87). -/
theorem cfgLegal_of_reserved {cfg : CfgWord} {n : Nat} (hn : 4 ≤ n) (hbit : cfg.getLsbD n = true) :
    cfgLegal cfg = false := by
  have hne : cfg >>> 4 ≠ 0#32 := by
    intro h0
    have hzero : (cfg >>> 4).getLsbD (n - 4) = false := by rw [h0, BitVec.getLsbD_zero]
    rw [BitVec.getLsbD_ushiftRight, Nat.add_sub_cancel' hn, hbit] at hzero
    cases hzero
  simpa [cfgLegal] using hne

/-- Settles O37: the check of the reserved bits comes first in a reset. -/
theorem reservedConfigurationRefused : Obligations.ReservedConfigurationRefused := by
  rintro s cfg l0 ⟨n, hn, hbit⟩
  simp [hostTurn, resetOp, cfgLegal_of_reserved hn hbit]

variable {W : Nat} {e : Event}

/-- A packed record with its fields one above the other (R83). -/
theorem Event.packed_eq (W : Nat) (e : Event) :
    e.packed W = e.flags.toNat + 2 ^ 16 * (e.value + 2 ^ W * (e.start + 2 ^ W * e.last)) := by
  unfold Event.packed
  ring

/-- Above the flags of a packed record lies its value. -/
theorem Event.packed_div_flags (W : Nat) (e : Event) :
    e.packed W / 2 ^ 16 = e.value + 2 ^ W * (e.start + 2 ^ W * e.last) := by
  rw [Event.packed_eq, Nat.add_mul_div_left _ _ (by decide), Nat.div_eq_of_lt e.flags.isLt, Nat.zero_add]

/-- Above the value of a packed record lies its start. -/
theorem Event.packed_div_value (hv : e.value < 2 ^ W) : e.packed W / 2 ^ (16 + W) = e.start + 2 ^ W * e.last := by
  rw [Nat.pow_add, ← Nat.div_div_eq_div_mul, Event.packed_div_flags, Nat.add_mul_div_left _ _ (Nat.two_pow_pos W),
    Nat.div_eq_of_lt hv, Nat.zero_add]

/-- Above the start of a packed record lies its end, and nothing else. -/
theorem Event.packed_div_start (hv : e.value < 2 ^ W) (hs : e.start < 2 ^ W) :
    e.packed W / 2 ^ (16 + 2 * W) = e.last := by
  rw [Nat.two_mul, ← Nat.add_assoc, Nat.pow_add, ← Nat.div_div_eq_div_mul, Event.packed_div_value hv,
    Nat.add_mul_div_left _ _ (Nat.two_pow_pos W), Nat.div_eq_of_lt hs, Nat.zero_add]

/-- The flags of a packed record lie lowest. -/
theorem Event.packed_mod_flags (W : Nat) (e : Event) : e.packed W % 2 ^ 16 = e.flags.toNat := by
  rw [Event.packed_eq, Nat.add_mul_mod_self_left, Nat.mod_eq_of_lt e.flags.isLt]

/-- A packed record has `16 + 3 W` bits (R83). -/
theorem Event.packed_lt (hv : e.value < 2 ^ W) (hs : e.start < 2 ^ W) (hl : e.last < 2 ^ W) :
    e.packed W < 2 ^ (16 + 3 * W) := by
  have hwidth : 16 + 3 * W = W + (16 + 2 * W) := by omega
  rw [hwidth, Nat.pow_add, ← Nat.div_lt_iff_lt_mul (Nat.two_pow_pos _), Event.packed_div_start hv hs]
  exact hl

/-- Byte `i` of a serialised record is its `i`-th group of eight bits (R83). -/
theorem Event.bytes_getD (e : Event) {i : Nat} (hi : 8 * i < 16 + 3 * W) :
    ((e.bytes W).getD i 0).toNat = e.packed W / 2 ^ (8 * i) % 256 := by
  have hlen : i < (16 + 3 * W + 7) / 8 := by omega
  simp [Event.bytes, List.getD, hlen]

/-- Settles O7: each field is a quotient of the packed word cut to its width. -/
theorem eventRecordPacking : Obligations.EventRecordPacking := by
  intro W e hv hs hl
  have hvalue : e.packed W / 2 ^ 16 % 2 ^ W = e.value := by
    rw [Event.packed_div_flags, Nat.add_mul_mod_self_left, Nat.mod_eq_of_lt hv]
  have hstart : e.packed W / 2 ^ (16 + W) % 2 ^ W = e.start := by
    rw [Event.packed_div_value hv, Nat.add_mul_mod_self_left, Nat.mod_eq_of_lt hs]
  have hlast := Event.packed_div_start hv hs
  have hflags : BitVec.ofNat 16 (e.packed W) = e.flags :=
    BitVec.eq_of_toNat_eq (by rw [BitVec.toNat_ofNat, Event.packed_mod_flags])
  refine ⟨Event.packed_lt hv hs hl, Event.packed_mod_flags W e, hvalue, hstart, hlast, ?_,
    fun i hi => Event.bytes_getD e hi⟩
  rw [Event.unpacked, hflags, hvalue, hstart, hlast, Nat.mod_eq_of_lt hl]

end Sys2Proof.Machine
end

section
/-! Dispatch in Idle-wait (R111, R134, R136): the class of a pulse where no pattern is in progress, and the operation that it
selects; and that a step runs what is selected (R110). -/

namespace Sys2Proof.Machine

variable {s : State} {T w : Nat} {key : Key} {i : Instr} {level : Level} {cls : WidthClass}

/-- A key that decodes selects the operation it decodes to. -/
theorem selectKeyed_of_decode (hi : decode (.keyed key) = .ok i) : selectKeyed (some key) = .runs i := by
  rw [selectKeyed, hi]

/-- Settles O15: the key at the cursor selects the operation, on whichever list of turns the core's turn comes up. -/
theorem stepRunsSelectedOperation : Obligations.StepRunsSelectedOperation := by
  intro s T key i hs hT hkey hi
  have hf : fetch s = .runs i := by
    rw [fetch_eq_selectKeyed hs hT, hkey, selectKeyed_of_decode hi]
  refine ⟨fun hturns => ?_, fun rest hturns => ?_⟩
  · rw [step, hturns]
    exact coreTurn_runs hf
  · rw [step, hturns]
    exact coreTurn_runs hf

/-- LONG is of a LOW pulse wider than 13 bit periods of a lock (R134). -/
theorem isLong_iff {bp10 : Nat} : isLong bp10 level w = true ↔ level = .low ∧ bp10 ≠ 0 ∧ 10 * w > 13 * bp10 :=
  decide_eq_true_iff

/-- The first step classifies no pulse (R136). -/
theorem classify_first (hfirst : s.first = true) (level : Level) (w : Nat) : classify s level w = some .ok := by
  rw [classify, if_pos hfirst]

/-- After the first step a LONG pulse has the class LONG, whatever else holds of it (R136). -/
theorem classify_long (hfirst : s.first = false) (hlong : isLong s.bp10 level w = true) :
    classify s level w = some .long := by
  simp [classify, hfirst, hlong]

/-- In Idle-wait a pulse that is not LONG is OK, at the first step and later (R136). -/
theorem classify_idleWait_of_not_long (hphase : s.phase = .unsynchronized) (hk : s.k = 0#4)
    (hlong : ¬(level = .low ∧ s.bp10 ≠ 0 ∧ 10 * w > 13 * s.bp10)) : classify s level w = some .ok :=
  classify_idleWait hphase hk (decide_eq_false hlong)

/-- In Idle-wait the engine runs what the level and the class of the pulse select (R111). -/
theorem fetch_idleWait (hs : Enabled s) (hT : PulseEnds s T) (hphase : s.phase = .unsynchronized) (hk : s.k = 0#4)
    (hcls : classify s (s.chan.level s.pos) (T - s.pos) = some cls)
    (hi : decodeIdleWait s.first (s.chan.level s.pos) cls = .ok i) : fetch s = .runs i := by
  obtain ⟨hhalted, hcancel⟩ := hs
  obtain ⟨hstart, hpulse⟩ := hT
  refine fetch_of_decodeFields hhalted hcancel hstart hpulse hcls ?_
  rw [hphase, hk]
  exact hi

/-- Settles O17: a pulse in Idle-wait is LONG, which only a LOW pulse after the first step can be, or OK. -/
theorem idleWaitDispatch : Obligations.IdleWaitDispatch := by
  intro s T hs hT hphase hk
  refine ⟨fun hhigh => ?_, fun hlow hfirst => ?_, fun hlow hfirst hbp hwide => ?_, fun hlow hfirst hshort => ?_⟩
  · have hcls : classify s (s.chan.level s.pos) (T - s.pos) = some .ok :=
      classify_idleWait_of_not_long hphase hk (by simp [hhigh])
    exact fetch_idleWait hs hT hphase hk hcls (by rw [hhigh]; rfl)
  · exact fetch_idleWait hs hT hphase hk (classify_first hfirst _ _) (by rw [hlow, hfirst]; rfl)
  · have hcls : classify s (s.chan.level s.pos) (T - s.pos) = some .long :=
      classify_long hfirst (isLong_iff.2 ⟨hlow, hbp, hwide⟩)
    exact fetch_idleWait hs hT hphase hk hcls (by rw [hlow, hfirst]; rfl)
  · have hcls : classify s (s.chan.level s.pos) (T - s.pos) = some .ok :=
      classify_idleWait_of_not_long hphase hk fun hlong => hshort hlong.2
    exact fetch_idleWait hs hT hphase hk hcls (by rw [hlow, hfirst]; rfl)

end Sys2Proof.Machine
end

section
/-! The operations that report a pulse (R112 to R114, R153, R181), and how many records an operation emits (R119). -/

namespace Sys2Proof.Machine

variable {s s' t : State} {T : Nat} {flags : FlagWord}

/-- A reported pulse whose end fits completes when the sink accepts: its samples and its flags make one record with value 0,
and the cursor moves to its end. -/
theorem reportPulse_next (hT : PulseEnds s T) (hf : s.fits T = true) (hr : s.sink.ready = true) :
    reportPulse s s' flags = .next (State.emitted { s' with pos := T }
      { start := s.pos, last := T - 1, flags := flags, value := 0 }).stepped := by
  obtain ⟨hstart, hpulse⟩ := hT
  have hlt := Channel.lt_nextT hpulse
  rw [reportPulse, observe_some hstart hpulse]
  exact finishEmit_next (by simpa using hf) (by omega) (State.fits_of_le s hlt.le hf)
    (State.fits_of_le s (Nat.sub_le T 1) hf) (State.fits_zero s) hr

/-- Settles O19: both operations report the pulse with the IDLE flag and write no other register. -/
theorem idleReportsPulse : Obligations.IdleReportsPulse := by
  intro s T first cls hT hf hr
  exact ⟨reportPulse_next hT hf hr, reportPulse_next hT hf hr⟩

/-- Settles O20: the three operations report the pulse with the BREAK flag and differ in the registers they write. -/
theorem breakReportsPulse : Obligations.BreakReportsPulse := by
  intro s T cls k hT hf hr
  exact ⟨reportPulse_next hT hf hr, reportPulse_next hT hf hr, reportPulse_next hT hf hr⟩

/-- The stream grows by one record. -/
def EmitsOne (s t : State) : Prop :=
  ∃ e, t.events = s.events ++ [e]

/-- An operation on a pulse that ends without a record keeps the stream. -/
theorem finish_keeps_events {stored : Nat → List Nat} {after : Nat → State}
    (h : observe s (fun T => finish s (after T) (stored T)) = .next t) (hafter : ∀ T, (after T).events = s.events) :
    t.events = s.events := by
  obtain ⟨-, ⟨-, rfl⟩ | ⟨T, -, hb⟩⟩ := observe_cases h
  · rfl
  · obtain ⟨-, rfl⟩ := finish_cases hb
    exact hafter T

/-- A reported pulse that completes is one record. -/
theorem reportPulse_emits_one (h : reportPulse s s' flags = .next t) (hevents : s'.events = s.events) :
    t = s ∨ EmitsOne s t := by
  refine (reportPulse_cases h).imp_right ?_
  rintro ⟨T, -, -, rfl⟩
  exact ⟨_, congrArg (· ++ [_]) hevents⟩

/-- SYNC.DONE that completes emits one record. -/
theorem execSyncDone_emits_one (h : execSyncDone s = .next t) : t = s ∨ EmitsOne s t := by
  refine (execSyncDone_cases h).imp_right ?_
  rintro ⟨T, -, -, -, -, -, -, rfl⟩
  exact ⟨_, rfl⟩

/-- FRAME that completes emits one record. -/
theorem execFrame_emits_one (h : execFrame s = .next t) : t = s ∨ EmitsOne s t := by
  refine (execFrame_cases h).imp_right ?_
  rintro ⟨T, f, -, -, -, -, -, -, rfl⟩
  exact ⟨_, rfl⟩

/-- A failed match that completes emits one record with `EMIT_DIAG` and none without (R119, R156). -/
theorem failPattern_emits (h : failPattern s flags = .next t) :
    (cfgEmitDiag s.cfg = true → t = s ∨ EmitsOne s t) ∧ (cfgEmitDiag s.cfg = false → t.events = s.events) := by
  obtain rfl | ⟨T, -, -, ⟨hdiag, -, rfl⟩ | ⟨hnodiag, rfl⟩⟩ := failPattern_cases h
  · exact ⟨fun _ => .inl rfl, fun _ => rfl⟩
  · exact ⟨fun _ => .inr ⟨_, rfl⟩, fun hnodiag => by simp [hdiag] at hnodiag⟩
  · exact ⟨fun hdiag => by simp [hnodiag] at hdiag, fun _ => rfl⟩

/-- Settles O35: each row of R119's table by the shared operation that its operations end in. -/
theorem eventsPerOperation : Obligations.EventsPerOperation := by
  intro i s t h
  refine ⟨?_, ?_, ?_⟩
  · rintro (rfl | ⟨k, rfl⟩ | rfl | rfl | rfl)
    iterate 4 exact finish_keeps_events h fun _ => rfl
    cases h
    rfl
  · rintro (⟨first, cls, rfl⟩ | ⟨cls, rfl⟩ | ⟨cls, rfl⟩ | ⟨k, rfl⟩ | rfl | rfl | rfl)
    iterate 5 exact reportPulse_emits_one h rfl
    · exact execSyncDone_emits_one h
    · exact execFrame_emits_one h
  · rintro (⟨k, level, rfl⟩ | ⟨k, level, rfl⟩ | ⟨k, level, rfl⟩)
    iterate 3 exact failPattern_emits h

end Sys2Proof.Machine
end

section
/-! The tolerance band and the class of a pulse at a pattern position, and the operation that it selects (R131 to R136). -/

namespace Sys2Proof.Machine

variable {cfg : CfgWord} {w r10 : Nat}

/-- The policy of a configuration word without `TOL_SEL` (R131). -/
theorem tolerance_eq_tolB (hsel : cfg.getLsbD 0 = false) : tolerance cfg = tolB := by
  rw [tolerance, cfgTolSel, hsel]
  rfl

/-- The policy of a configuration word with `TOL_SEL` (R131). -/
theorem tolerance_eq_tolA (hsel : cfg.getLsbD 0 = true) : tolerance cfg = tolA := by
  rw [tolerance, cfgTolSel, hsel]
  rfl

/-- The floor of `TOL_B` is 3/4 of the reference (R132). -/
theorem isNarrow_tolB_iff (hsel : cfg.getLsbD 0 = false) : isNarrow cfg w r10 = true ↔ 40 * w < 3 * r10 := by
  simp [isNarrow, tolerance_eq_tolB hsel, tolB]

/-- The ceiling of `TOL_B` is 5/2 of the reference (R132). -/
theorem isWide_tolB_iff (hsel : cfg.getLsbD 0 = false) : isWide cfg w r10 = true ↔ 4 * w > r10 := by
  simp only [isWide, tolerance_eq_tolB hsel, tolB, decide_eq_true_iff]
  omega

/-- The floor of `TOL_A` is 1/2 of the reference (R132). -/
theorem isNarrow_tolA_iff (hsel : cfg.getLsbD 0 = true) : isNarrow cfg w r10 = true ↔ 20 * w < r10 := by
  simp [isNarrow, tolerance_eq_tolA hsel, tolA]

/-- The ceiling of `TOL_A` is 3/2 of the reference (R132). -/
theorem isWide_tolA_iff (hsel : cfg.getLsbD 0 = true) : isWide cfg w r10 = true ↔ 20 * w > 3 * r10 := by
  simp [isWide, tolerance_eq_tolA hsel, tolA]

/-- Settles O12: the two predicates under each policy, and the factor 10 of a reference in provisional periods cancels. -/
theorem tolerancePredicatesPerPolicy : Obligations.TolerancePredicatesPerPolicy := by
  intro cfg w r10 m prov
  simp only [Nat.mul_assoc]
  refine ⟨fun hsel => ?_, fun hsel => ?_⟩
  · refine ⟨isNarrow_tolB_iff hsel, isWide_tolB_iff hsel, (isNarrow_tolB_iff hsel).trans ?_,
      (isWide_tolB_iff hsel).trans ?_⟩
    · omega
    · omega
  · refine ⟨isNarrow_tolA_iff hsel, isWide_tolA_iff hsel, (isNarrow_tolA_iff hsel).trans ?_,
      (isWide_tolA_iff hsel).trans ?_⟩
    · omega
    · omega

/-- A width below the floor is below the reference, whatever the policy. -/
theorem lt_reference_of_isNarrow (h : isNarrow cfg w r10 = true) : 10 * w < r10 := by
  cases hsel : cfg.getLsbD 0 with
  | false =>
    have hfloor := (isNarrow_tolB_iff hsel).1 h
    omega
  | true =>
    have hfloor := (isNarrow_tolA_iff hsel).1 h
    omega

/-- A width above the ceiling is above the reference, whatever the policy. -/
theorem reference_lt_of_isWide (h : isWide cfg w r10 = true) : r10 < 10 * w := by
  cases hsel : cfg.getLsbD 0 with
  | false =>
    have hceiling := (isWide_tolB_iff hsel).1 h
    omega
  | true =>
    have hceiling := (isWide_tolA_iff hsel).1 h
    omega

/-- Settles O13: the reference lies between the widths that are too narrow and those that are too wide or a BREAK. -/
theorem widthFailuresExclude : Obligations.WidthFailuresExclude := by
  intro cfg w r10 h
  have hlt := lt_reference_of_isNarrow h
  refine ⟨Bool.eq_false_iff.2 fun hwide => ?_, Bool.eq_false_iff.2 fun hlong => ?_⟩
  · exact Nat.lt_asymm hlt (reference_lt_of_isWide hwide)
  · obtain ⟨-, -, hbreak⟩ := isLong_iff.1 hlong
    omega

/-- Settles O14: each entry of the table by evaluating its check. -/
theorem boundaryWidths : Obligations.BoundaryWidths := by
  unfold Obligations.BoundaryWidths
  decide

end Sys2Proof.Machine

namespace Sys2Proof

variable {k : BitVec 4}

/-- The level of the training pattern by the parity of the position (R133). -/
theorem patternLevel_eq (k : BitVec 4) : patternLevel k = if k.toNat % 2 = 1 then .high else .low := by
  revert k; decide

/-- A pattern position is one of the single-period bits, or it is 8 or 9. -/
theorem position_cases (hk9 : k.toNat ≤ 9) : k.toNat ≤ 7 ∨ k = 8#4 ∨ k = 9#4 := by
  revert k; decide

/-- An OK pulse at a pattern position is the pattern's next bit (R90). -/
theorem decodeTraining_ok (hk9 : k.toNat ≤ 9) : decodeTraining k (patternLevel k) .ok =
    .ok (if k.toNat ≤ 7 then .syncBit k else if k.toNat = 8 then .syncPair else .syncDone) := by
  obtain h7 | rfl | rfl := position_cases hk9
  · simp [decodeTraining, h7]
  · rfl
  · rfl

end Sys2Proof

namespace Sys2Proof.Machine

variable {s : State} {i : Instr} {T w prov : Nat} {level : Level} {cls : WidthClass} {cfg : CfgWord} {k : BitVec 4}
  {check : Level × Nat × Bool}

/-- The check at a pattern position: the pattern's level, one period or two, and a ceiling that only position 9 can lack
(R133). -/
theorem positionCheck_eq (cfg : CfgWord) (hk : 1 ≤ k.toNat) (hk9 : k.toNat ≤ 9) :
    positionCheck cfg k = some (patternLevel k, if k.toNat ≤ 7 then 1 else 2, decide (k.toNat ≤ 8) || cfg.getLsbD 3) := by
  obtain h7 | rfl | rfl := position_cases hk9
  · have h8 : k.toNat ≤ 8 := Nat.le_succ_of_le h7
    simp [positionCheck, hk, h7, h8]
  · rfl
  · rfl

/-- A pulse of another level than the expected one (R136). -/
theorem classifyAt_wrongLevel (hlevel : level ≠ check.1) : classifyAt cfg prov level w check = .wrongLevel := by
  rw [classifyAt, if_pos hlevel]

/-- A pulse of the expected level below the floor (R136). -/
theorem classifyAt_narrow (hlevel : level = check.1) (hnarrow : isNarrow cfg w (10 * check.2.1 * prov) = true) :
    classifyAt cfg prov level w check = .narrow := by
  simp [classifyAt, hlevel, hnarrow]

/-- A pulse of the expected level above a ceiling that applies (R136). -/
theorem classifyAt_wide (hlevel : level = check.1) (hnarrow : isNarrow cfg w (10 * check.2.1 * prov) = false)
    (hupper : check.2.2 = true) (hwide : isWide cfg w (10 * check.2.1 * prov) = true) :
    classifyAt cfg prov level w check = .wide := by
  simp [classifyAt, hlevel, hnarrow, hupper, hwide]

/-- A pulse of the expected level in the band, or above a ceiling that does not apply (R136). -/
theorem classifyAt_ok (hlevel : level = check.1) (hnarrow : isNarrow cfg w (10 * check.2.1 * prov) = false)
    (hpass : check.2.2 = false ∨ isWide cfg w (10 * check.2.1 * prov) = false) :
    classifyAt cfg prov level w check = .ok := by
  obtain hupper | hwide := hpass
  · simp [classifyAt, hlevel, hnarrow, hupper]
  · simp [classifyAt, hlevel, hnarrow, hwide]

/-- At a pattern position a pulse that is not LONG has the class that the position's check gives it (R136). -/
theorem classify_training (hfirst : s.first = false) (hphase : s.phase = .unsynchronized) (hk : s.k ≠ 0#4)
    (hcheck : positionCheck s.cfg s.k = some check)
    (hlong : ¬(level = .low ∧ s.bp10 ≠ 0 ∧ 10 * w > 13 * s.bp10)) :
    classify s level w = some (classifyAt s.cfg s.prov level w check) := by
  have hshort : isLong s.bp10 level w = false := decide_eq_false hlong
  simp [classify, hfirst, hshort, hphase, hk, hcheck]

/-- At a pattern position the engine runs what the level and the class of the pulse select (R90). -/
theorem fetch_training (hs : Enabled s) (hT : PulseEnds s T) (hfirst : s.first = false)
    (hphase : s.phase = .unsynchronized) (hk : s.k ≠ 0#4) (hk9 : s.k.toNat ≤ 9)
    (hcls : classify s (s.chan.level s.pos) (T - s.pos) = some cls)
    (hi : decodeTraining s.k (s.chan.level s.pos) cls = .ok i) : fetch s = .runs i := by
  obtain ⟨hhalted, hcancel⟩ := hs
  obtain ⟨hstart, hpulse⟩ := hT
  refine fetch_of_decodeFields hhalted hcancel hstart hpulse hcls ?_
  simp [decodeFields, hphase, hfirst, hk, hk9, hi]

/-- Settles O18: a pulse at a pattern position is LONG or has the class that the position's check gives it, and each class
has its row. -/
theorem trainingDispatch : Obligations.TrainingDispatch := by
  rintro s T m hs hT hfirst hphase hk1 hk9 rfl
  have hk : s.k ≠ 0#4 := fun h0 => by simp [h0] at hk1
  have hrun {cls i} := fetch_training (cls := cls) (i := i) hs hT hfirst hphase hk hk9
  have hcheck := positionCheck_eq s.cfg hk1 hk9
  rw [← patternLevel_eq]
  refine ⟨fun hlong => ?_, fun hshort => ?_⟩
  · exact hrun (classify_long hfirst (isLong_iff.2 hlong)) (by rw [hlong.1]; rfl)
  have hcls := classify_training hfirst hphase hk hcheck hshort
  refine ⟨fun hlevel => ?_, fun hlevel => ⟨fun hnarrow => ?_, fun hnarrow hwide hupper => ?_, fun hnarrow hpass => ?_⟩⟩
  · rw [classifyAt_wrongLevel hlevel] at hcls
    exact hrun hcls rfl
  · rw [classifyAt_narrow hlevel hnarrow] at hcls
    exact hrun hcls rfl
  · rw [classifyAt_wide hlevel hnarrow (by simpa using hupper) hwide] at hcls
    exact hrun hcls rfl
  · have hband : (decide (s.k.toNat ≤ 8) || s.cfg.getLsbD 3) = false ∨
        isWide s.cfg (T - s.pos) (10 * (if s.k.toNat ≤ 7 then 1 else 2) * s.prov) = false := by
      obtain hwide | ⟨hnine, hupper⟩ := hpass
      · exact .inr hwide
      · exact .inl (by rw [hnine, hupper]; rfl)
    rw [classifyAt_ok hlevel hnarrow hband] at hcls
    exact hrun hcls (by rw [hlevel, decodeTraining_ok hk9])

end Sys2Proof.Machine
end

section
/-! The operations of the SyncDetector where they complete (R152 to R157): the next state of each, given the end of its pulse. -/

namespace Sys2Proof.Machine

variable {s : State} {T : Nat} {flag : FlagWord}

/-- SYNC.START completes when the end of its pulse fits, because the cursor and the width then fit too (R152). -/
theorem execSyncStart_next (hT : PulseEnds s T) (hf : s.fits T = true) : execSyncStart s =
    .next { s with origin := s.pos, prov := T - s.pos, k := 1#4, pos := T, first := false } := by
  obtain ⟨hstart, hpulse⟩ := hT
  have hpos : s.fits s.pos = true := State.fits_of_le s (Channel.lt_nextT hpulse).le hf
  have hwidth : s.fits (T - s.pos) = true := State.fits_of_le s (Nat.sub_le T s.pos) hf
  rw [execSyncStart, observe_some hstart hpulse]
  exact finish_next (by simp [hpos, hwidth, hf])

/-- Settles O21: the values that SYNC.START stores are not above the end of its pulse. -/
theorem syncStartOpensPattern : Obligations.SyncStartOpensPattern :=
  fun _ _ hT hf => execSyncStart_next hT hf

/-- SYNC.BIT completes when the end of its pulse fits (R154). -/
theorem execSyncBit_next (k : BitVec 4) (hT : PulseEnds s T) (hf : s.fits T = true) :
    execSyncBit k s = .next { s with k := s.k + 1#4, pos := T, first := false } := by
  rw [execSyncBit, observe_some hT.1 hT.2]
  exact finish_next (by simpa using hf)

/-- SYNC.PAIR completes when the end of its pulse fits (R155). -/
theorem execSyncPair_next (hT : PulseEnds s T) (hf : s.fits T = true) :
    execSyncPair s = .next { s with k := 9#4, pos := T, first := false } := by
  rw [execSyncPair, observe_some hT.1 hT.2]
  exact finish_next (by simpa using hf)

/-- Settles O22: below position 15 the next position does not wrap. -/
theorem syncBitAndPairAdvance : Obligations.SyncBitAndPairAdvance := by
  refine fun s T hT hf => ⟨fun k hk => ⟨s.k + 1#4, ?_, execSyncBit_next k hT hf⟩, execSyncPair_next hT hf⟩
  rw [BitVec.toNat_add]
  exact Nat.mod_eq_of_lt (Nat.lt_succ_of_le (Nat.succ_le_succ hk))

/-- A failed match without `EMIT_DIAG` completes when the end of its pulse fits (R156). -/
theorem failPattern_next (hT : PulseEnds s T) (hf : s.fits T = true) (hdiag : cfgEmitDiag s.cfg = false) :
    failPattern s flag = .next { s with k := 0#4, pos := T, first := false } := by
  rw [failPattern, observe_some hT.1 hT.2, hdiag]
  exact finish_next (by simpa using hf)

/-- A pattern position fits in `SAMPLE_W` bits. -/
theorem State.fits_position (hl : s.params.Legal) (k : BitVec 4) : s.fits k.toNat = true :=
  State.fits_of_le s (Nat.le_of_lt_succ k.isLt) (State.fits_byte hl 15#8)

/-- A failed match with `EMIT_DIAG` completes when its fields fit and the sink accepts: one record covers the attempt
(R156). -/
theorem failPattern_emits_next (hT : PulseEnds s T) (hf : s.fits T = true) (hdiag : cfgEmitDiag s.cfg = true)
    (hl : s.params.Legal) (ho : s.fits s.origin = true) (hr : s.sink.ready = true) :
    failPattern s flag = .next (State.emitted { s with k := 0#4, pos := T }
      { start := s.origin, last := T - 1, flags := flag, value := s.k.toNat }).stepped := by
  obtain ⟨hstart, hpulse⟩ := hT
  rw [failPattern, observe_some hstart hpulse, if_pos hdiag]
  exact finishEmit_next (by simpa using hf) (Nat.zero_lt_of_lt (Channel.lt_nextT hpulse)) ho
    (State.fits_of_le s (Nat.sub_le T 1) hf) (State.fits_position hl s.k) hr

/-- Settles O23: the three rows of SYNC.FAIL differ in the flag alone. -/
theorem syncFailResetsPattern : Obligations.SyncFailResetsPattern := by
  intro s T k level hT hf
  refine ⟨fun hdiag => ?_, fun hdiag hl ho hr => ?_⟩
  · have hnext (flag : FlagWord) := failPattern_next (flag := flag) hT hf hdiag
    exact ⟨hnext _, hnext _, hnext _⟩
  · have hnext (flag : FlagWord) := failPattern_emits_next (flag := flag) hT hf hdiag hl ho hr
    exact ⟨hnext _, hnext _, hnext _⟩

/-- SYNC.DONE resumes at the end of its pulse or before, and not before its cursor (R157). -/
theorem le_syncResume {p b : Nat} (h : p < T) : p ≤ syncResume p b T :=
  le_min h.le (Nat.le_add_right p (b / 5))

/-- SYNC.DONE completes when its resume point fits and the sink accepts: the period and the record's fields are not above the
resume point (R157). -/
theorem execSyncDone_next (hT : PulseEnds s T) (ho : s.origin < s.pos)
    (hf : s.fits (syncResume s.pos (s.pos - s.origin) T) = true) (hr : s.sink.ready = true) :
    execSyncDone s = .next (State.emitted
      { s with
        bp10 := s.pos - s.origin
        phase := .synchronized
        k := 0#4
        pos := syncResume s.pos (s.pos - s.origin) T }
      { start := s.origin, last := syncResume s.pos (s.pos - s.origin) T - 1, flags := flagSync,
        value := s.pos - s.origin }).stepped := by
  obtain ⟨hstart, hpulse⟩ := hT
  have hle := le_syncResume (b := s.pos - s.origin) (Channel.lt_nextT hpulse)
  have hfit {v : Nat} (hv : v ≤ s.pos) : s.fits v = true := State.fits_of_le s (hv.trans hle) hf
  have hperiod := hfit (Nat.sub_le s.pos s.origin)
  rw [execSyncDone, observe_some hstart hpulse, if_neg (Nat.lt_asymm ho)]
  exact finishEmit_next (by simp [hperiod, hf]) (Nat.zero_lt_of_lt (ho.trans_le hle)) (hfit ho.le)
    (State.fits_of_le s (Nat.sub_le _ 1) hf) hperiod hr

/-- Settles O24: the resume point is `syncResume`. -/
theorem syncDoneLocksPeriod : Obligations.SyncDoneLocksPeriod := by
  rintro s T R hT ho rfl hf hr
  exact execSyncDone_next hT ho hf hr

end Sys2Proof.Machine
end

section
/-! The class WRONG_LEVEL asks for a level that no state of the invariant has at its pattern position (R136, R160). -/

namespace Sys2Proof.Machine

variable {s : State} {k : BitVec 4} {level : Level} {w : Nat}

/-- A position's check answers WRONG_LEVEL only on another level than the expected one (R136). -/
theorem level_ne_of_classifyAt {cfg : CfgWord} {prov : Nat} {check : Level × Nat × Bool}
    (h : classifyAt cfg prov level w check = .wrongLevel) : level ≠ check.1 := by
  intro hlevel
  rw [classifyAt, if_neg (not_not.2 hlevel)] at h
  split_ifs at h

/-- A pulse of class WRONG_LEVEL does not have the level of its pattern position (R136). -/
theorem level_ne_of_wrongLevel (hfirst : s.first = false) (hphase : s.phase = .unsynchronized) (hk : 1 ≤ s.k.toNat)
    (hk9 : s.k.toNat ≤ 9) (h : classify s level w = some .wrongLevel) : level ≠ patternLevel s.k := by
  have hshort := not_isLong_of_classify hfirst (by decide) h
  have hcls := classify_training hfirst hphase (fun h0 => by simp [h0] at hk) (positionCheck_eq s.cfg hk hk9)
    (of_decide_eq_false hshort)
  exact level_ne_of_classifyAt (Option.some.inj (hcls.symm.trans h))

/-- What the engine runs is well formed, and the state and the pulse have the fields of its row (R90, R110). -/
theorem fields_of_fetch {i : Instr} (h : fetch s = .runs i) : i = .halt ∨ i.wellFormed = true ∧ ∃ T cls,
    classify s (s.chan.level s.pos) (T - s.pos) = some cls ∧
      i.fields = some ⟨s.first, s.phase, s.k, s.chan.level s.pos, cls⟩ := by
  obtain ⟨-, -, rfl⟩ | ⟨-, -, -, T, key, -, hkey, hi⟩ := fetch_runs h
  · exact .inl rfl
  · obtain ⟨cls, hcls, rfl⟩ := Option.map_eq_some_iff.1 hkey
    rw [decode, decodeKey_packKey] at hi
    obtain ⟨hw, hfields⟩ := fields_of_decodeFields hi
    exact .inr ⟨hw, T, cls, hcls, hfields⟩

/-- Settles O46: the invariant gives every pattern position the level that its check expects. -/
theorem wrongLevelUnreachable : Obligations.WrongLevelUnreachable := by
  intro s k level hinv h
  obtain hi | ⟨hw, T, cls, hcls, hfields⟩ := fields_of_fetch h
  · cases hi
  · simp only [Instr.fields, Option.some.injEq, KeyFields.mk.injEq] at hfields
    obtain ⟨hfirst, hphase, rfl, -, rfl⟩ := hfields
    obtain ⟨hk, hk9⟩ := of_decide_eq_true hw
    exact level_ne_of_wrongLevel hfirst.symm hphase.symm hk hk9 hcls (hinv.patternEdge hk).2

end Sys2Proof.Machine
end

section
/-! Consecutive pulses on a channel: where each begins, and that the next transition there is its end (R53). And one step more
of a run. -/

namespace Sys2Proof.Machine

/-- The sample at which pulse `i` of the pulses `us` from `p` on begins. -/
def pulseStart (p : Nat) (us : List Nat) (i : Nat) : Nat :=
  p + (us.take i).sum

variable {us : List Nat} {p i j : Nat}

/-- A pulse begins where the one before it ends. -/
theorem pulseStart_succ (p : Nat) (hi : i < us.length) : pulseStart p us (i + 1) = pulseStart p us i + us.getD i 0 := by
  rw [pulseStart, List.sum_take_succ us i hi, List.getD_eq_getElem us 0 hi, ← Nat.add_assoc, pulseStart]

/-- Pulses begin in order. -/
theorem pulseStart_mono (p : Nat) (us : List Nat) (h : i ≤ j) : pulseStart p us i ≤ pulseStart p us j :=
  Nat.add_le_add_left ((List.take_sublist_take_left h).sum_le_sum fun _ _ => Nat.zero_le _) p

/-- On a channel that carries consecutive pulses, the next transition at the start of one is its end (R53). -/
theorem Channel.nextT_pulseStart {c : Channel} {before after : List Nat}
    (hedges : c.edges = before ++ pulseEnds p us ++ after) (hbefore : ∀ t ∈ before, t ≤ p) (hpos : ∀ u ∈ us, 1 ≤ u)
    (hi : i < us.length) : c.nextT (pulseStart p us i) = some (pulseStart p us (i + 1)) := by
  induction us generalizing before p i with
  | nil => cases hi
  | cons u us ih =>
    obtain ⟨hu, hus⟩ := List.forall_mem_cons.1 hpos
    cases i with
    | zero =>
      have hnone : before.find? (fun t => decide (p < t)) = none := by simpa using hbefore
      have hlt : p < p + u := Nat.lt_add_of_pos_right hu
      simp [Channel.nextT, hedges, pulseEnds, pulseStart, hnone, hlt]
    | succ i =>
      have hbelow : ∀ t ∈ before ++ [p + u], t ≤ p + u := by
        intro t ht
        obtain ht | ht := List.mem_append.1 ht
        · exact (hbefore t ht).trans (Nat.le_add_right p u)
        · exact (List.mem_singleton.1 ht).le
      have hnext := ih (p := p + u) (by simpa [pulseEnds] using hedges) hbelow hus (Nat.lt_of_succ_lt_succ hi)
      simpa [pulseStart, Nat.add_assoc] using hnext

/-- One step more than a run that goes on. -/
theorem run_succ {M : Host.Core} {s t : M.State} {n : Nat} (h : M.run n s = .next t) : M.run (n + 1) s = M.step t := by
  induction n generalizing s with
  | zero =>
    cases h
    simp only [Host.Core.run]
    cases M.step t <;> rfl
  | succ n ih =>
    rw [Host.Core.run] at h ⊢
    cases hs : M.step s with
    | next s' =>
      rw [hs] at h
      exact ih h
    | fault r | refused r =>
      rw [hs] at h
      cases h

end Sys2Proof.Machine
end

section
/-! A SYNC pattern within tolerance (R150, R157, R158, R161): each of its pulses passes the check of its position, and each of the
ten steps takes one of them. -/

namespace Sys2Proof.Machine

variable {s : State} {us : List Nat} {cfg : CfgWord} {T i bp10 prov w : Nat}

/-- A pulse of width `w` passes position `i` of a pattern with provisional period `prov`: if LOW it is no BREAK of an earlier
lock, and it is in the band, whose ceiling position 9 has only with `SYNC9_UPPER` (R133, R134, R136). -/
structure PassesPosition (cfg : CfgWord) (bp10 prov i w : Nat) : Prop where
  no_break : i % 2 = 0 → bp10 = 0 ∨ 10 * w ≤ 13 * bp10
  not_narrow : isNarrow cfg w (10 * (if i ≤ 7 then 1 else 2) * prov) = false
  not_wide : isWide cfg w (10 * (if i ≤ 7 then 1 else 2) * prov) = false ∨ i = 9 ∧ cfg.getLsbD 3 = false

/-- A pulse of one provisional period in the band passes any of the positions 1 to 7 (R133). -/
theorem PassesPosition.of_one_period (hi : i ≤ 7) (hbreak : i % 2 = 0 → bp10 = 0 ∨ 10 * w ≤ 13 * bp10)
    (hnarrow : isNarrow cfg w (10 * prov) = false) (hwide : isWide cfg w (10 * prov) = false) :
    PassesPosition cfg bp10 prov i w :=
  ⟨hbreak, by simpa [hi] using hnarrow, .inl (by simpa [hi] using hwide)⟩

/-- A HIGH pulse of two provisional periods in the band, whose ceiling may be off, passes position 9 (R133, R136). -/
theorem PassesPosition.last (hnarrow : isNarrow cfg w (20 * prov) = false)
    (hwide : cfg.getLsbD 3 = true → isWide cfg w (20 * prov) = false) : PassesPosition cfg bp10 prov 9 w := by
  refine ⟨nofun, hnarrow, ?_⟩
  cases hupper : cfg.getLsbD 3 with
  | false => exact .inr ⟨rfl, rfl⟩
  | true => exact .inl (hwide hupper)

/-- A LOW pulse that is no BREAK of an earlier lock, in the form in which the dispatch asks it. -/
theorem not_long_of_le (h : bp10 = 0 ∨ 10 * w ≤ 13 * bp10) : ¬(bp10 ≠ 0 ∧ 10 * w > 13 * bp10) := by
  omega

/-- The engine takes a pulse that passes its position as the pattern's next bit. -/
theorem EngineInvariant.fetch_passing (hinv : EngineInvariant s) (hs : Enabled s) (hT : PulseEnds s T)
    (hphase : s.phase = .unsynchronized) (hk : 1 ≤ s.k.toNat)
    (hpass : PassesPosition s.cfg s.bp10 s.prov s.k.toNat (T - s.pos)) :
    fetch s = .runs (if s.k.toNat ≤ 7 then .syncBit s.k else if s.k.toNat = 8 then .syncPair else .syncDone) := by
  have hfirst := hinv.not_first_of_pattern fun h0 => by simp [h0] at hk
  have hlevel := (hinv.patternEdge hk).2
  rw [patternLevel_eq] at hlevel
  obtain ⟨-, hshort⟩ := trainingDispatch s T _ hs hT hfirst hphase hk hinv.r34.position rfl
  refine ((hshort ?_).2 hlevel).2.2 hpass.not_narrow hpass.not_wide
  rintro ⟨hlow, hlong⟩
  have heven : s.k.toNat % 2 = 0 := by
    by_contra hodd
    rw [if_pos (Nat.mod_two_ne_zero.1 hodd), hlow] at hlevel
    cases hlevel
  exact not_long_of_le (hpass.no_break heven) hlong

/-- With no turns settled a step runs what the engine selects. -/
theorem step_runs {j : Instr} (hturns : s.turns = []) (h : fetch s = .runs j) : step s = exec j s := by
  rw [step, hturns]
  exact coreTurn_runs h

/-- A pulse that passes one of the positions 1 to 8 takes the engine to the next position (R154, R155). -/
theorem EngineInvariant.step_passing (hinv : EngineInvariant s) (hs : Enabled s) (hturns : s.turns = [])
    (hT : PulseEnds s T) (hphase : s.phase = .unsynchronized) (hk : 1 ≤ s.k.toNat) (hk8 : s.k.toNat ≤ 8)
    (hpass : PassesPosition s.cfg s.bp10 s.prov s.k.toNat (T - s.pos)) (hf : s.fits T = true) :
    step s = .next { s with k := s.k + 1#4, pos := T, first := false } := by
  rw [step_runs hturns (hinv.fetch_passing hs hT hphase hk hpass)]
  by_cases hk7 : s.k.toNat ≤ 7
  · rw [if_pos hk7]
    exact execSyncBit_next s.k hT hf
  · have hk' : s.k.toNat = 8 := by omega
    have hk9 : s.k + 1#4 = 9#4 := by rw [BitVec.eq_of_toNat_eq (y := 8#4) hk']; rfl
    rw [if_neg hk7, if_pos hk', hk9]
    exact execSyncPair_next hT hf

/-- The state of the engine at position `i` of a pattern of the pulses `us` that begins at the cursor of `s` (R152). -/
def atPosition (s : State) (us : List Nat) (i : Nat) : State :=
  { s with
    origin := s.pos, prov := us.getD 0 0, k := BitVec.ofNat 4 i, pos := pulseStart s.pos us i, first := false }

/-- The register holds a position up to 9 as it is. -/
theorem atPosition_k (s : State) (us : List Nat) (hi : i ≤ 9) : (atPosition s us i).k.toNat = i :=
  Nat.mod_eq_of_lt (Nat.lt_of_le_of_lt hi (by decide))

/-- Ten pulses from the cursor on that lock: each ends where the next begins, the last of them fits, the first is no BREAK of
an earlier lock, and the others pass their positions. -/
structure LockingPulses (s : State) (us : List Nat) : Prop where
  count : us.length = 10
  ends : ∀ i, i < 10 → s.chan.nextT (pulseStart s.pos us i) = some (pulseStart s.pos us (i + 1))
  fits : s.fits (pulseStart s.pos us 10) = true
  no_break : s.bp10 = 0 ∨ 10 * us.getD 0 0 ≤ 13 * s.bp10
  passes : ∀ i, 1 ≤ i → i ≤ 9 → PassesPosition s.cfg s.bp10 (us.getD 0 0) i (us.getD i 0)

/-- The pulse at each position of the pattern ends where the next one begins. -/
theorem LockingPulses.pulse_at (h : LockingPulses s us) (hinv : EngineInvariant s) (hi : i < 10) :
    PulseEnds (atPosition s us i) (pulseStart s.pos us (i + 1)) :=
  ⟨hinv.posStart.trans (Nat.le_add_right s.pos _), h.ends i hi⟩

/-- Each pulse of the pattern is as wide as it is listed. -/
theorem LockingPulses.width (h : LockingPulses s us) (hi : i < 10) :
    pulseStart s.pos us (i + 1) - pulseStart s.pos us i = us.getD i 0 := by
  rw [pulseStart_succ s.pos (h.count ▸ hi), Nat.add_sub_cancel_left]

/-- Every pulse of the pattern ends at a sample that fits. -/
theorem LockingPulses.fits_end (h : LockingPulses s us) (hi : i ≤ 10) : s.fits (pulseStart s.pos us i) = true :=
  State.fits_of_le s (pulseStart_mono s.pos us hi) h.fits

/-- The pulse at each position of the pattern passes it. -/
theorem LockingPulses.passes_at (h : LockingPulses s us) (hi : 1 ≤ i) (hi9 : i ≤ 9) :
    PassesPosition s.cfg s.bp10 (us.getD 0 0) (atPosition s us i).k.toNat
      (pulseStart s.pos us (i + 1) - pulseStart s.pos us i) := by
  rw [atPosition_k s us hi9, h.width (Nat.lt_succ_of_le hi9)]
  exact h.passes i hi hi9

section
variable (h : LockingPulses s us) (hinv : EngineInvariant s) (hs : Enabled s) (hturns : s.turns = [])
  (hphase : s.phase = .unsynchronized)
include h hinv hs hturns hphase

/-- The first pulse opens the pattern (R152). -/
theorem LockingPulses.step_start (hk : s.k = 0#4) (hfirst : s.first = false) (hlow : s.chan.level s.pos = .low) :
    step s = .next (atPosition s us 1) := by
  have hT : PulseEnds s (pulseStart s.pos us 1) := h.pulse_at hinv (i := 0) (by decide)
  have hwidth : pulseStart s.pos us 1 - s.pos = us.getD 0 0 := h.width (i := 0) (by decide)
  obtain ⟨-, -, -, hstart⟩ := idleWaitDispatch s _ hs hT hphase hk
  rw [step_runs hturns (hstart hlow hfirst (not_long_of_le (hwidth ▸ h.no_break))),
    syncStartOpensPattern s _ hT (h.fits_end (by decide)), hwidth]
  rfl

/-- The pulses at positions 1 to 8 each take the engine to the next position (R154, R155). -/
theorem LockingPulses.step_next (hinvi : EngineInvariant (atPosition s us i)) (hi : 1 ≤ i) (hi8 : i ≤ 8) :
    step (atPosition s us i) = .next (atPosition s us (i + 1)) := by
  have hk := atPosition_k s us (Nat.le_succ_of_le hi8)
  have hnext := hinvi.step_passing hs hturns (h.pulse_at hinv (by omega)) hphase (hi.trans hk.ge)
    (hk.le.trans hi8) (h.passes_at hi (by omega)) (h.fits_end (by omega))
  have hsucc : BitVec.ofNat 4 (i + 1) = (atPosition s us i).k + 1#4 := BitVec.ofNat_add i 1
  rw [hnext, ← hsucc]
  rfl

/-- The pulse at position 9 locks the period (R157). -/
theorem LockingPulses.step_done (hinv9 : EngineInvariant (atPosition s us 9)) {R : Nat}
    (hR : R = min (pulseStart s.pos us 10) (pulseStart s.pos us 9 + (us.take 9).sum / 5)) (hr : s.sink.ready = true) :
    step (atPosition s us 9) = .next { s with
      phase := .synchronized
      k := 0#4
      origin := s.pos
      prov := us.getD 0 0
      bp10 := (us.take 9).sum
      pos := R
      first := false
      events := s.events ++ [{ start := s.pos, last := R - 1, flags := 0x0004#16, value := (us.take 9).sum }]
      sink := s.sink.accept } := by
  have hT := h.pulse_at hinv (i := 9) (by decide)
  have hk9 := atPosition_k s us (i := 9) (by decide)
  have hk1 : 1 ≤ (atPosition s us 9).k.toNat := by omega
  have hrun := hinv9.fetch_passing hs hT hphase hk1 (h.passes_at (by decide) (by decide))
  have hperiod : pulseStart s.pos us 9 - s.pos = (us.take 9).sum := Nat.add_sub_cancel_left ..
  have hspan : s.pos < pulseStart s.pos us 9 := (hinv9.r34.trainingPeriod hk1 hk9.le).2
  have hfits : s.fits R = true := State.fits_of_le s (hR ▸ Nat.min_le_left _ _) h.fits
  rw [step_runs (s := atPosition s us 9) hturns hrun]
  refine (syncDoneLocksPeriod (atPosition s us 9) _ R hT hspan ?_ hfits hr).trans ?_
  · exact hR.trans (by rw [← hperiod]; rfl)
  · rw [← hperiod]
    rfl

/-- After `i` steps the engine is at position `i` of the pattern, and meets its invariant. -/
theorem LockingPulses.run_to (hk : s.k = 0#4) (hfirst : s.first = false) (hlow : s.chan.level s.pos = .low) (hi : 1 ≤ i)
    (hi9 : i ≤ 9) : Host.Core.run core i s = .next (atPosition s us i) ∧ EngineInvariant (atPosition s us i) := by
  induction i, hi using Nat.le_induction with
  | base =>
    have hstep := h.step_start hinv hs hturns hphase hk hfirst hlow
    exact ⟨(run_succ (M := core) (n := 0) rfl).trans hstep, stepKeepsEngineInvariant _ _ hinv hstep⟩
  | succ i hi ih =>
    obtain ⟨hrun, hinvi⟩ := ih (Nat.le_of_succ_le hi9)
    have hstep := h.step_next hinv hs hturns hphase hinvi hi (Nat.le_of_succ_le_succ hi9)
    exact ⟨(run_succ hrun).trans hstep, stepKeepsEngineInvariant _ _ hinvi hstep⟩

end

/-- Settles O53: the ten pulses pass the positions they come up at, and each step moves on to the next. -/
theorem syncPatternLocks : Obligations.SyncPatternLocks := by
  intro s before after ws w9 R hinv hs hturns hphase hk hfirst hlow hedges hbefore hlen hpos hpos9 hbreak hband hnarrow8
    hwide8 hnarrow9 hwide9 hfits hr hR
  have hus : ∀ u ∈ ws ++ [w9], 1 ≤ u := by simpa [or_imp, forall_and] using ⟨hpos, hpos9⟩
  have hcount : (ws ++ [w9]).length = 10 := by simp [hlen]
  have hget {i : Nat} (hi : i ≤ 8) : (ws ++ [w9]).getD i 0 = ws.getD i 0 := by
    rw [List.getD_append _ _ _ _ (by omega)]
  have hget9 : (ws ++ [w9]).getD 9 0 = w9 := by
    rw [List.getD_append_right _ _ _ _ (by omega), hlen]
    rfl
  have htake9 : (ws ++ [w9]).take 9 = ws := List.take_left' hlen
  have hend : pulseStart s.pos (ws ++ [w9]) 10 = s.pos + ws.sum + w9 := by
    rw [pulseStart, List.take_of_length_le hcount.le, List.sum_append, List.sum_singleton, Nat.add_assoc]
  have hlock : LockingPulses s (ws ++ [w9]) := {
    count := hcount
    ends := fun i hi => Channel.nextT_pulseStart hedges hbefore hus (hcount ▸ hi)
    fits := hend ▸ hfits
    no_break := hget (Nat.zero_le 8) ▸ hbreak 0 (by decide) rfl
    passes := fun i hi hi9 => by
      rw [hget (Nat.zero_le 8)]
      obtain hi7 | rfl | rfl : i ≤ 7 ∨ i = 8 ∨ i = 9 := by omega
      · rw [hget (by omega)]
        obtain ⟨hnarrow, hwide⟩ := hband i hi hi7
        exact .of_one_period hi7 (hbreak i (by omega)) hnarrow hwide
      · rw [hget (by decide)]
        exact ⟨hbreak 8 (by decide), hnarrow8, .inl hwide8⟩
      · rw [hget9]
        exact .last hnarrow9 hwide9 }
  obtain ⟨hrun, hinv9⟩ := hlock.run_to hinv hs hturns hphase hk hfirst hlow (i := 9) (by decide) (by decide)
  have hdone := hlock.step_done hinv hs hturns hphase hinv9 (R := R) (by rw [hend, pulseStart, htake9, hR]) hr
  rw [htake9, hget (Nat.zero_le 8), ← hk, ← hfirst] at hdone
  exact (run_succ hrun).trans hdone

end Sys2Proof.Machine
end

section
/-! The error conditions of a frame: the parity bit against the bits of the byte (R185), and the transitions crossed in the
second stop-bit window (R186). -/

namespace Sys2Proof

/-- A level's bit says whether it is HIGH (R10). -/
theorem Level.isHigh_eq_decide (l : Level) : l.isHigh = decide (l = .high) := by
  cases l <;> rfl

/-- The number of elements that satisfy `p` is odd exactly when the exclusive or of their truth values is true. -/
theorem decide_countP_odd {α : Type} (p : α → Bool) (xs : List α) :
    decide (xs.countP p % 2 = 1) = (xs.map p).foldr xor false := by
  induction xs with
  | nil => rfl
  | cons x xs ih =>
    rw [List.map_cons, List.foldr_cons, ← ih, List.countP_cons]
    cases p x with
    | false => simp
    | true =>
      rcases Nat.mod_two_eq_zero_or_one (xs.countP p) with h | h <;> simp [h, Nat.add_mod]

end Sys2Proof

namespace Sys2Proof.Machine

/-- Settles O27: the parity of the number of 1 bits is their exclusive or. -/
theorem parityErrorIsOddParity : Obligations.ParityErrorIsOddParity := by
  intro byte parity
  have hbits : List.range 8 = [0, 1, 2, 3, 4, 5, 6, 7] := rfl
  rw [parityError, popcount, decide_countP_odd, hbits, Level.isHigh_eq_decide, Bool.bne_eq_xor]
  simp only [List.map_cons, List.map_nil, List.foldr_cons, List.foldr_nil, Bool.xor_false, Bool.xor_assoc]

/-- Between two samples of the same level an even number of transitions is crossed (R52, R54). -/
theorem Channel.crossed_even_of_level_eq (c : Channel) {a b : Nat} (h : a ≤ b) (hlevel : c.level a = c.level b) :
    c.crossed a b % 2 = 0 := by
  by_contra hodd
  rw [c.level_of_crossed h, if_neg hodd] at hlevel
  exact Level.ne_flip _ hlevel

/-- Settles O11: between two HIGH stop samples one crossed transition is never alone, and a LOW one is an error anyway. -/
theorem framingThresholdIsImmaterial : Obligations.FramingThresholdIsImmaterial := by
  intro c a b h
  cases ha : c.level a with
  | low => rfl
  | high =>
    cases hb : c.level b with
    | low => rfl
    | high =>
      have heven := c.crossed_even_of_level_eq h (ha.trans hb.symm)
      have hthreshold : 1 ≤ c.crossed a b ↔ 2 ≤ c.crossed a b := by omega
      simp only [framingError, hthreshold]

end Sys2Proof.Machine
end

section
/-! Dispatch while synchronised (R111, R136, R180): the class of a pulse, and the operation that it selects. And RESYNC where it
completes (R182). -/

namespace Sys2Proof.Machine

variable {s : State} {T w : Nat} {i : Instr} {level : Level} {cls : WidthClass}

/-- While synchronised a pulse that is not LONG is NARROW if it is a LOW one below the floor, else OK (R136). -/
theorem classify_synchronised (hfirst : s.first = false) (hphase : s.phase = .synchronized)
    (hlong : ¬(level = .low ∧ s.bp10 ≠ 0 ∧ 10 * w > 13 * s.bp10)) :
    classify s level w = some (if level = .low ∧ isNarrow s.cfg w s.bp10 then .narrow else .ok) := by
  have hshort : isLong s.bp10 level w = false := decide_eq_false hlong
  simp [classify, hfirst, hshort, hphase]

/-- While synchronised the engine runs what the level and the class of the pulse select (R90). -/
theorem fetch_synchronised (hs : Enabled s) (hT : PulseEnds s T) (hfirst : s.first = false)
    (hphase : s.phase = .synchronized) (hk : s.k = 0#4)
    (hcls : classify s (s.chan.level s.pos) (T - s.pos) = some cls)
    (hi : decodeFrameDecode (s.chan.level s.pos) cls = .ok i) : fetch s = .runs i := by
  obtain ⟨hhalted, hcancel⟩ := hs
  obtain ⟨hstart, hpulse⟩ := hT
  refine fetch_of_decodeFields hhalted hcancel hstart hpulse hcls ?_
  simp [decodeFields, hphase, hfirst, hk, hi]

/-- Settles O16: a LONG pulse is a BREAK whatever its narrowness, and of the others the floor decides for the LOW ones. -/
theorem synchronisedDispatch : Obligations.SynchronisedDispatch := by
  intro s T hs hT hfirst hphase hk
  have hrun {cls i} := fetch_synchronised (cls := cls) (i := i) hs hT hfirst hphase hk
  have hclass := classify_synchronised (level := s.chan.level s.pos) (w := T - s.pos) hfirst hphase
  refine ⟨fun hhigh => ?_, fun hlow hbp hwide => ?_, fun hlow hshort hnarrow => ?_, fun hlow hshort hpass => ?_⟩
  · have hcls := hclass (by simp [hhigh])
    rw [if_neg (by simp [hhigh])] at hcls
    exact hrun hcls (by rw [hhigh]; rfl)
  · exact hrun (classify_long hfirst (isLong_iff.2 ⟨hlow, hbp, hwide⟩)) (by rw [hlow]; rfl)
  · have hcls := hclass fun hlong => hshort hlong.2
    rw [if_pos ⟨hlow, hnarrow⟩] at hcls
    exact hrun hcls (by rw [hlow]; rfl)
  · have hcls := hclass fun hlong => hshort hlong.2
    rw [if_neg (by simp [hpass])] at hcls
    exact hrun hcls (by rw [hlow]; rfl)

/-- Settles O25: RESYNC stores nothing that could overflow. -/
theorem resyncKeepsCursor : Obligations.ResyncKeepsCursor := by
  rintro s T ⟨hstart, hpulse⟩
  exact (observe_some hstart hpulse).trans (finish_next nofun)

end Sys2Proof.Machine
end

section
/-! FRAME on an arbitrary frame (R183 to R188): where it blocks, and what it reports where it resumes. -/

namespace Sys2Proof.Machine

variable {s : State} {c : Channel} {s0 b R : Nat}

/-- An operation whose body waits whatever the end of the pulse waits, with or without that end (R115). -/
theorem observe_waits {body : Nat → Result} (hstart : s.params.captureStart ≤ s.pos)
    (hbody : ∀ T, body T = .next s) : observe s body = .next s := by
  cases hT : s.chan.nextT s.pos with
  | none => exact observe_none hstart hT
  | some T => exact (observe_some hstart hT).trans (hbody T)

/-- FRAME waits while the frame cannot be read (R183). -/
theorem execFrame_waits (hstart : s.params.captureStart ≤ s.pos) (hread : readFrame s.chan s.pos s.bp10 = none) :
    execFrame s = .next s :=
  observe_waits hstart fun _ => by rw [hread]

/-- A frame with no resume point cannot be read. -/
theorem readFrame_eq_none (h : frameResume c s0 b = none) : readFrame c s0 b = none := by
  rw [readFrame, h, Option.map_none, ite_self]

/-- Settles O30: the frame cannot be read before `C(11)` is supplied, nor without a resume point. -/
theorem unsuppliedFrameBlocks : Obligations.UnsuppliedFrameBlocks := by
  intro s hstart C11 B12 h
  refine execFrame_waits hstart ?_
  obtain h11 | ⟨hlow, hnext⟩ | ⟨hhigh, h12⟩ := h
  · exact if_neg (Bool.eq_false_iff.1 h11)
  · have hlevel : s.chan.level (bitCentre s.pos s.bp10 11) = .low := hlow
    refine readFrame_eq_none ?_
    rw [frameResume, hlevel]
    exact hnext
  · have hlevel : s.chan.level (bitCentre s.pos s.bp10 11) = .high := hhigh
    refine readFrame_eq_none ?_
    rw [frameResume, hlevel]
    exact if_neg (Bool.eq_false_iff.1 h12)

/-- The assembled byte depends on the eight bits alone. -/
theorem assembleByte_congr {f g : Nat → Bool} (h : ∀ i, i < 8 → f i = g i) : assembleByte f = assembleByte g :=
  congrArg (fun bits : List Nat => BitVec.ofNat 8 bits.sum)
    (List.map_congr_left fun i hi => by rw [h i (List.mem_range.1 hi)])

/-- The frame's byte is the one with the levels at the bit centres as its bits (R184). -/
theorem dataByte_eq {byte : Byte}
    (h : ∀ i, i < 8 → byte.getLsbD i = decide (c.level (bitCentre s0 b (i + 1)) = .high)) : dataByte c s0 b = byte := by
  rw [← assembleByte_getLsbD byte, dataByte]
  exact assembleByte_congr fun i hi => by rw [Level.isHigh_eq_decide, h i hi]

/-- A framing error is a LOW stop sample or a transition crossed between the two (R186). -/
theorem framingError_iff {stop1 stop2 : Level} {crossed : Nat} :
    framingError stop1 stop2 crossed = true ↔ stop1 = .low ∨ stop2 = .low ∨ 1 ≤ crossed := by
  simp [framingError, or_assoc]

/-- What FRAME reads where the frame resumes at `R` (R183 to R186). -/
theorem FrameResumesAt.readFrame_eq (h : FrameResumesAt s R) : readFrame s.chan s.pos s.bp10 = some
    { byte := dataByte s.chan s.pos s.bp10
      perr := parityError (dataByte s.chan s.pos s.bp10) (s.chan.level (bitCentre s.pos s.bp10 9))
      ferr := framingError (s.chan.level (bitCentre s.pos s.bp10 10)) (s.chan.level (bitCentre s.pos s.bp10 11))
        (s.chan.crossed (bitCentre s.pos s.bp10 10) (bitCentre s.pos s.bp10 11))
      resume := R } := by
  obtain ⟨h11, hR⟩ := (frameResumesAt_iff_frameResume s R).1 h
  rw [readFrame, if_pos h11, hR]
  rfl

/-- The value of a frame's event fits: it is a byte or the locked period (R84, R188). -/
theorem State.fits_frameValue (hl : s.params.Legal) (hb : s.fits s.bp10 = true) (f : FrameReading) :
    s.fits (frameValue s.cfg s.bp10 f) = true := by
  rw [frameValue]
  split
  · exact hb
  · exact State.fits_byte hl f.byte

/-- Settles O26: what FRAME reads at the bit centres is the byte and the two errors of the statement, and its record begins
before it resumes. -/
theorem frameDecodesByte : Obligations.FrameDecodesByte := by
  intro s T R byte ferr hT hl hbp hb C hbits hferr hR hfits hr
  have hbyte : dataByte s.chan s.pos s.bp10 = byte := dataByte_eq hbits
  have hframing : framingError (s.chan.level (bitCentre s.pos s.bp10 10)) (s.chan.level (bitCentre s.pos s.bp10 11))
      (s.chan.crossed (bitCentre s.pos s.bp10 10) (bitCentre s.pos s.bp10 11)) = ferr :=
    Bool.eq_iff_iff.2 (framingError_iff.trans hferr.symm)
  have hread := hR.readFrame_eq
  rw [hbyte, hframing] at hread
  exact execFrame_next hT hread (hR.lt hbp) hfits (State.fits_frameValue hl hb _) hr

end Sys2Proof.Machine
end

section
/-! The frame read by walking the cursor from bit centre to bit centre (R55, R56, R183): the walk arrives at each centre at its
absolute position, and its last move is the resume point of `frameResume`. -/

namespace Sys2Proof.Machine

variable {c : Channel} {s0 b p q n j : Nat} {js : List Nat}

/-- A move of the cursor forward to `q` arrives at `q` and counts what it crosses, once `q` is supplied (R56). -/
theorem Channel.advanceBy_to (hpq : p ≤ q) (hq : c.supplied q = true) :
    c.advanceBy p (q - p) = some (q, c.crossed p q) := by
  rw [Channel.advanceBy, Nat.add_sub_cancel' hpq, if_pos hq]

/-- A move of the cursor to an unsupplied sample blocks (R56). -/
theorem Channel.advanceBy_unsupplied (hq : c.supplied q = false) : c.advanceBy p (q - p) = none := by
  refine if_neg fun hsup => ?_
  rw [Channel.supplied_of_le (by omega : q ≤ p + (q - p)) hsup] at hq
  cases hq

/-- A walk to one centre more is the walk before it and one more move. -/
theorem walkCentres_concat (c : Channel) (s0 b j : Nat) (js : List Nat) (p n : Nat) :
    walkCentres c s0 b (js ++ [j]) p n = (walkCentres c s0 b js p n).bind fun r =>
      (c.advanceBy r.2.2 (bitCentre s0 b j - r.2.2)).map fun a => (r.1 ++ [c.level a.1], a.2, a.1) := by
  induction js generalizing p n with
  | nil =>
    simp only [List.nil_append, walkCentres, Option.bind_some]
    cases c.advanceBy p (bitCentre s0 b j - p) <;> rfl
  | cons i js ih =>
    simp only [List.cons_append, walkCentres]
    cases c.advanceBy p (bitCentre s0 b i - p) with
    | none => rfl
    | some a =>
      simp only [ih, Option.map_bind, Option.bind_map]
      congr 1
      funext r
      simp [Function.comp_def]

/-- A walk whose last centre is not supplied blocks (R183). -/
theorem walkCentres_unsupplied (hj : c.supplied (bitCentre s0 b j) = false) :
    walkCentres c s0 b (js ++ [j]) p n = none := by
  rw [walkCentres_concat]
  simp [Channel.advanceBy_unsupplied hj]

/-- A walk from `q` on to a supplied centre reads the level there and counts what it crosses (R56, R183). -/
theorem walkCentres_next {levels : List Level} {m : Nat} (hwalk : walkCentres c s0 b js p n = some (levels, m, q))
    (hq : q ≤ bitCentre s0 b j) (hj : c.supplied (bitCentre s0 b j) = true) :
    walkCentres c s0 b (js ++ [j]) p n =
      some (levels ++ [c.level (bitCentre s0 b j)], c.crossed q (bitCentre s0 b j), bitCentre s0 b j) := by
  rw [walkCentres_concat, hwalk]
  simp [Channel.advanceBy_to hq hj]

/-- The levels at the centres of the first `n` bits (R184). -/
def centreLevels (c : Channel) (s0 b n : Nat) : List Level :=
  (List.range n).map fun j => c.level (bitCentre s0 b j)

/-- The last level listed is the one at the last centre. -/
theorem centreLevels_succ (c : Channel) (s0 b n : Nat) :
    centreLevels c s0 b (n + 1) = centreLevels c s0 b n ++ [c.level (bitCentre s0 b n)] := by
  rw [centreLevels, List.range_succ, List.map_append]
  rfl

/-- The level listed for bit `j` is the one at its centre. -/
theorem centreLevels_getD (hj : j < n) (l : Level) : (centreLevels c s0 b n).getD j l = c.level (bitCentre s0 b j) := by
  simp [centreLevels, List.getD, hj]

/-- The walk from the start of the frame arrives at the centre of bit `n`, with the levels at all centres on the way (R183). -/
theorem walkCentres_range (hn : c.supplied (bitCentre s0 b n) = true) :
    ∃ m, walkCentres c s0 b (List.range (n + 1)) s0 0 = some (centreLevels c s0 b (n + 1), m, bitCentre s0 b n) := by
  induction n with
  | zero => exact ⟨_, walkCentres_next (js := []) rfl (Nat.le_add_right s0 _) hn⟩
  | succ n ih =>
    have hle := bitCentre_mono s0 b (Nat.le_succ n)
    obtain ⟨m, hwalk⟩ := ih (Channel.supplied_of_le hle hn)
    rw [List.range_succ, walkCentres_next hwalk hle hn, ← centreLevels_succ]
    exact ⟨_, rfl⟩

/-- The count that the walk returns is that of its last move (R183). -/
theorem walkCentres_range_succ (hn : c.supplied (bitCentre s0 b (n + 1)) = true) :
    walkCentres c s0 b (List.range (n + 2)) s0 0 = some (centreLevels c s0 b (n + 2),
      c.crossed (bitCentre s0 b n) (bitCentre s0 b (n + 1)), bitCentre s0 b (n + 1)) := by
  have hle := bitCentre_mono s0 b (Nat.le_succ n)
  obtain ⟨m, hwalk⟩ := walkCentres_range (Channel.supplied_of_le hle hn)
  rw [List.range_succ, walkCentres_next hwalk hle hn, ← centreLevels_succ]

/-- The walk's last move ends at the frame's resume point (R187). -/
theorem walkResume_eq (c : Channel) (s0 b : Nat) :
    walkResume c s0 b (bitCentre s0 b 11) (c.level (bitCentre s0 b 11)) = frameResume c s0 b := by
  have hle : bitCentre s0 b 11 ≤ frameEnd s0 b := by
    rw [bitCentre, frameEnd]
    omega
  unfold walkResume frameResume
  cases c.level (bitCentre s0 b 11) with
  | low => rfl
  | high =>
    cases h12 : c.supplied (frameEnd s0 b) with
    | false => simp [Channel.advanceBy_unsupplied h12]
    | true => simp [Channel.advanceBy_to hle h12, Channel.advanceToNextTransition]

/-- Settles O51: the walk blocks or arrives with the levels at the bit centres, and resumes where the frame does. -/
theorem frameWalkAgrees : Obligations.FrameWalkAgrees := by
  intro c s0 b
  rw [walkFrame, readFrame]
  cases h11 : c.supplied (bitCentre s0 b 11) with
  | false =>
    rw [List.range_succ, walkCentres_unsupplied h11]
    rfl
  | true =>
    have hbyte : assembleByte (fun i => ((centreLevels c s0 b 12).getD (i + 1) .low).isHigh) = dataByte c s0 b :=
      assembleByte_congr fun i hi => by rw [centreLevels_getD (by omega)]
    have hget {j : Nat} (hj : j < 12) := centreLevels_getD (c := c) (s0 := s0) (b := b) hj .low
    rw [walkCentres_range_succ (n := 10) h11]
    simp only [hbyte, hget (j := 9) (by decide), hget (j := 10) (by decide), hget (j := 11) (by decide), Nat.reduceAdd,
      walkResume_eq, if_true]

end Sys2Proof.Machine
end

section
/-! A sink that does not accept (R238): an operation that would complete with a sink that accepts waits. Its values then fit, so
only the sink holds it back. -/

namespace Sys2Proof.Machine

variable {s s' t : State} {T R start stop value : Nat} {stored : List Nat} {flags : FlagWord}

/-- The state with a sink that accepts every record. -/
def State.accepting (s : State) : State :=
  { s with sink := .always }

/-- An emission that goes on where the sink accepts waits where it does not: whether its values fit does not depend on the
sink, nor on the state it would end in. -/
theorem finishEmit_waits_of_accepting {u : State}
    (hnext : finishEmit s.accepting u stored start stop flags value = .next t) (hr : s.sink.ready = false) :
    finishEmit s s' stored start stop flags value = .next s := by
  obtain ⟨hstored, hstop, hstart, hlast, hvalue, -⟩ := finishEmit_cases hnext
  exact finishEmit_waits hstored hstop hstart hlast hvalue hr

/-- The pulse at the cursor ends at the same sample, whatever the sink: what completes there is the operation's body. -/
theorem body_of_observe_accepting {body : Nat → Result} (hT : PulseEnds s T)
    (hnext : observe s.accepting body = .next t) : body T = .next t :=
  (observe_some (s := s.accepting) hT.1 hT.2).symm.trans hnext

/-- A reported pulse whose end fits waits for the sink. -/
theorem reportPulse_waits (hT : PulseEnds s T) (hf : s.fits T = true) (hr : s.sink.ready = false) :
    reportPulse s s' flags = .next s := by
  have hnext := body_of_observe_accepting hT (reportPulse_next (s' := s') (flags := flags) hT hf rfl)
  exact (observe_some hT.1 hT.2).trans (finishEmit_waits_of_accepting hnext hr)

/-- SYNC.DONE whose resume point fits waits for the sink. -/
theorem execSyncDone_waits (hT : PulseEnds s T) (ho : s.origin < s.pos)
    (hf : s.fits (syncResume s.pos (s.pos - s.origin) T) = true) (hr : s.sink.ready = false) :
    execSyncDone s = .next s := by
  have hspan := Nat.lt_asymm ho
  have hnext := body_of_observe_accepting hT (execSyncDone_next hT ho hf rfl)
  rw [execSyncDone, observe_some hT.1 hT.2, if_neg hspan]
  exact finishEmit_waits_of_accepting ((if_neg hspan).symm.trans hnext) hr

/-- A failed match with `EMIT_DIAG` whose fields fit waits for the sink. -/
theorem failPattern_waits (hT : PulseEnds s T) (hf : s.fits T = true) (hdiag : cfgEmitDiag s.cfg = true)
    (hl : s.params.Legal) (ho : s.fits s.origin = true) (hr : s.sink.ready = false) :
    failPattern s flags = .next s := by
  have hnext := body_of_observe_accepting hT (failPattern_emits_next (flag := flags) hT hf hdiag hl ho rfl)
  rw [failPattern, observe_some hT.1 hT.2, if_pos hdiag]
  exact finishEmit_waits_of_accepting ((if_pos hdiag).symm.trans hnext) hr

/-- A failed match with `EMIT_DIAG` whose pattern begins at a sample that does not fit faults. -/
theorem failPattern_origin_overflow (hT : PulseEnds s T) (hdiag : cfgEmitDiag s.cfg = true)
    (ho : s.fits s.origin = false) : failPattern s flags = .fault .indexOverflow := by
  rw [failPattern, observe_some hT.1 hT.2, if_pos hdiag]
  exact finishEmit_start_overflow ho

/-- FRAME whose resume point fits waits for the sink. -/
theorem execFrame_waits_for_sink (hT : PulseEnds s T) (hR : FrameResumesAt s R) (hl : s.params.Legal)
    (hbp : 1 ≤ s.bp10) (hb : s.fits s.bp10 = true) (hf : s.fits R = true) (hr : s.sink.ready = false) :
    execFrame s = .next s := by
  have hread := hR.readFrame_eq
  have hnext := body_of_observe_accepting hT
    (execFrame_next hT hread (hR.lt hbp) hf (State.fits_frameValue hl hb _) rfl)
  rw [execFrame, observe_some hT.1 hT.2]
  simp only [State.accepting, hread] at hnext ⊢
  exact finishEmit_waits_of_accepting hnext hr

/-- Settles O31: each operation that emits completes where its values fit, so it waits for the sink there, and it faults
elsewhere. -/
theorem unreadySinkWaits : Obligations.UnreadySinkWaits := by
  intro s T hT hr
  refine ⟨?_, ?_, ?_, fun R hR => ⟨fun hl hbp hb hf => execFrame_waits_for_sink hT hR hl hbp hb hf hr,
    execFrame_overflow hT hR⟩⟩
  · rintro i (⟨first, cls, rfl⟩ | ⟨cls, rfl⟩ | ⟨cls, rfl⟩ | ⟨k, rfl⟩ | rfl)
    iterate 5 exact ⟨fun hf => reportPulse_waits hT hf hr, reportPulse_overflow hT⟩
  · rintro R rfl
    exact ⟨fun ho hf => execSyncDone_waits hT ho hf hr, fun h =>
      h.elim (execSyncDone_negative hT) (execSyncDone_overflow hT)⟩
  · intro i hi hdiag
    have hfail (flags : FlagWord) :
        (s.params.Legal → s.fits s.origin = true → s.fits T = true → failPattern s flags = .next s) ∧
        (s.fits s.origin = false ∨ s.fits T = false → failPattern s flags = .fault .indexOverflow) :=
      ⟨fun hl ho hf => failPattern_waits hT hf hdiag hl ho hr, fun h =>
        h.elim (failPattern_origin_overflow hT hdiag) (failPattern_overflow hT)⟩
    obtain ⟨k, level, rfl⟩ | ⟨k, level, rfl⟩ | ⟨k, level, rfl⟩ := hi
    iterate 3 exact hfail _

end Sys2Proof.Machine
end

section
/-! What the host may not do during a run (R233, R234): the turns that are refused. -/

namespace Sys2Proof.Machine

variable {s : State} {a : HostAction} {rest : List Turn} {cfg : CfgWord} {n t : Nat}

/-- A step on a settled turn of the host is that turn. -/
theorem step_host (hturns : s.turns = .host a :: rest) : step s = hostTurn a { s with turns := rest } := by
  rw [step, hturns]

/-- During a run the configuration input may carry the latched word and no other (R233). -/
theorem hostTurn_presentCfg (hh : s.halted = false) :
    hostTurn (.presentCfg cfg) s = if cfg = s.cfg then .next s else .refused .cfgChanged := by
  simp [hostTurn, hh]

/-- The cursor may be put where it is and nowhere else (R234). -/
theorem hostTurn_moveCursor : hostTurn (.moveCursor n) s = if n = s.pos then .next s else .refused .cursorMoved := rfl

/-- A supplied sample may not be altered (R234). -/
theorem hostTurn_alterSample_supplied (hstart : s.params.captureStart ≤ n) (hsup : s.chan.supplied n = true) :
    hostTurn (.alterSample n) s = .refused .cursorMoved :=
  if_pos ⟨hstart, hsup⟩

/-- A transition may not be supplied at a supplied sample that is none (R234). -/
theorem hostTurn_supplyEdge_supplied (hsup : s.chan.supplied t = true) (ht : t ∉ s.chan.edges) :
    hostTurn (.supplyEdge t) s = .refused .cursorMoved := by
  rw [hostTurn, supplyEdge, if_pos hsup, if_neg ht]

/-- Settles O39: each clause is one turn of the host, and what it asks does not depend on the turns still settled. -/
theorem hostViolationsRefused : Obligations.HostViolationsRefused := by
  intro s rest
  refine ⟨fun cfg hturns hh => ?_, fun n hturns => ?_, fun n hturns hstart hsup => ?_, fun t hturns hsup ht => ?_⟩
  · have hstep := (step_host hturns).trans (hostTurn_presentCfg hh)
    exact ⟨fun hcfg => hstep.trans (if_neg hcfg), fun hcfg => hstep.trans (if_pos hcfg)⟩
  · have hstep := (step_host hturns).trans hostTurn_moveCursor
    exact ⟨fun hn => hstep.trans (if_neg hn), fun hn => hstep.trans (if_pos hn)⟩
  · exact (step_host hturns).trans (hostTurn_alterSample_supplied hstart hsup)
  · exact (step_host hturns).trans (hostTurn_supplyEdge_supplied hsup ht)

end Sys2Proof.Machine
end
